-- ==== Sys2Proof/Word.lean ====
section
/-!
DEFINITION. Word.lean: the plain data the U340 handles: bytes, cell values, and the bounded numbers
that name stations and chunks.
-/
namespace Sys2Proof

/-- A byte of the Local Port or of the line (chapter 10). It also names a cell: cells are 0..255 (R1). -/
abbrev Byte := BitVec 8

/-- The shared 16-bit quantity of a cell (Table 1-1), and every 16-bit field of an entry. -/
abbrev Value := BitVec 16

/-- A station number 0..31 (section 0.4). -/
abbrev Station := Fin 32

/-- A chunk number 0..15; chunk c holds cells 16c to 16c+15 (R1). -/
abbrev Chunk := Fin 16

/-- The owner of a cell: NONE or a station number, whatever has last acted on it (R1). -/
abbrev Owner := Option Station

/-- The sixteen chunks in order (R1). -/
def allChunks : List Chunk := [0, 1, 2, 3, 4, 5, 6, 7, 8, 9, 10, 11, 12, 13, 14, 15]

end Sys2Proof
end

