-- ==== Sys2Proof/Config.lean ====
section
/-!
DEFINITION. Config.lean: what the manual fixes for the part as numbers, and the configuration record
of Table 8-6 with its defaults. The manual leaves no value free, so there is no opaque constant.
-/
namespace Sys2Proof

/-- Attention mode (R143, R150). -/
inductive AttnMode
  | edge
  | level
  deriving DecidableEq, Repr

/-- The configuration record of the Configuration Store (R143, Table 8-6). -/
structure ConfigRecord where
  /-- station number, 0..31 -/
  station : Station
  /-- line rate field, 0..3 (Table 3-1) -/
  rate : Fin 4
  quiet : Bool
  solo : Bool
  /-- retry limit, 0..15 -/
  retryLimit : Fin 16
  /-- fill timeout in ms, 1..255 -/
  fillTimeout : Byte
  autoFill : Bool
  impliedFill : Bool
  attnMode : AttnMode
  /-- attention mask: bit k masks the cause of code k (Table 10-11) -/
  attnMask : Byte
  deriving DecidableEq, Repr

namespace Config

/-- The defaults of Table 8-6. -/
def defaultRecord : ConfigRecord :=
  { station := 0, rate := 1, quiet := false, solo := false, retryLimit := 3, fillTimeout := 20,
    autoFill := true, impliedFill := true, attnMode := .edge, attnMask := 0 }

/-- Depth of the port FIFO (R136). -/
def fifoDepth : Nat := 16

/-- Capacity of the apply list (R8). -/
def applyCapacity : Nat := 2

/-- Most entries of a staging list and of a group (R119). -/
def groupCapacity : Nat := 8

/-- The mismatch count that takes the station to FAULTED (R74). -/
def faultMismatches : Nat := 4

/-- Bits of the longest frame, an FDAT's, before its turnaround (Table 3-4). -/
def longestFrameTb : Nat := 698

/-- Recessive tb at which line idle is reported (Table 3-6, Table 3-7). -/
def lineIdleTb : Nat := 12

/-- Recessive tb that take SEARCH to REST (Table 3-7). -/
def searchRestTb : Nat := 23

/-- Shortest RESET# assertion taken as a reset, in ns (R161, Table 12-2). -/
def resetFilterNs : Nat := 1000

/-- Bit time in microseconds by line rate field (Table 3-1). -/
def bitTimeUs : Fin 4 → Nat
  | 0 => 8
  | 1 => 4
  | 2 => 2
  | 3 => 1

end Config

end Sys2Proof
end

