-- ==== Sys2Proof/Syntax.lean ====
section
/-!
DEFINITION. Syntax.lean: the update entry and the other operands of the commands, and Instr, whose
constructors are the rows of spec/opcode_table.json. The table gives its rows no bits; the operands
are those the row's rule names (log entries 2, 6, 13, 14).
-/
namespace Sys2Proof

/-- Where the operand of the value action comes from (R22, Table 10-6 byte 1 bit 2). -/
inductive OperandSource
  | immediate
  | cell
  deriving DecidableEq, Repr

/-- Match functions (R23). -/
inductive MatchFn
  | any
  | never
  | same
  | different
  deriving DecidableEq, Repr

/-- Magnitude functions (R24, Table 2-2). -/
inductive MagnitudeFn
  | any
  | gt
  | eq
  | ge
  | never
  | le
  | ne
  | lt
  deriving DecidableEq, Repr

/-- Owner tests (R25). -/
inductive OwnerTest
  | any
  | free
  | mine
  | freeOrMine
  deriving DecidableEq, Repr

/-- Value actions (R27, Table 2-3). -/
inductive ValueAction
  | keep
  | zero
  | set
  | invert
  | addSat
  | subSat
  | addWrap
  | subWrap
  deriving DecidableEq, Repr

/-- Owner actions (R29); `illegal` is the fourth code of the field (R21). -/
inductive OwnerAction
  | keep
  | take
  | drop
  | illegal
  deriving DecidableEq, Repr

/-- An update entry: the fields of Table 2-1, and the six unused bits of Table 10-6, which the part
keeps as written (R159). -/
structure Entry where
  cell : Byte
  plain : Bool
  chain : Bool
  source : OperandSource
  ownerTest : OwnerTest
  ownerAction : OwnerAction
  matchFn : MatchFn
  magnitudeFn : MagnitudeFn
  passAction : ValueAction
  failAction : ValueAction
  reference : Value
  operand : Value
  writeMask : Value
  matchMask : Value
  magnitudeMask : Value
  /-- byte 1 bit 7 (R159) -/
  unused1 : BitVec 1
  /-- byte 2 bits 7..5 (R159) -/
  unused2 : BitVec 3
  /-- byte 3 bits 7..6 (R159) -/
  unused3 : BitVec 2
  deriving DecidableEq, Repr

/-- The nine parameter bytes of CONFIGURE, in order (R144, Table 10-11). -/
structure ConfigBytes where
  stationNumber : Byte
  lineRate : Byte
  flags : Byte
  retryLimit : Byte
  fillTimeout : Byte
  attnMask : Byte
  stationComplement : Byte
  rateComplement : Byte
  flagsComplement : Byte
  deriving DecidableEq, Repr

/-- The four frame kinds (R48, Table 3-3). -/
inductive FrameKind
  | seed
  | freq
  | fdat
  | upd
  deriving DecidableEq, Repr

/-- A frame as the bits read from the key to the second check byte give it (R46, R54). -/
structure RawFrame where
  key : BitVec 7
  h1 : Byte
  h2 : Byte
  payload : List Byte
  checkHigh : Byte
  checkLow : Byte
  deriving DecidableEq, Repr

/-- The four candidate slots (R63, Table 4-4). -/
inductive CandidateSlot
  | seed
  | request
  | group
  | answer
  deriving DecidableEq, Repr

/-- What brings a hardware reset about: RESET# low for some nanoseconds, a supply dip, or power-on
(R149, R161). -/
inductive ResetSource
  | pin (widthNs : Nat)
  | supplyDip
  | powerOn
  deriving DecidableEq, Repr

/-- The two slots of a window as RXD shows them, dominant as true (R80, R160). -/
structure SlotsRead where
  accept : Bool
  veto : Bool
  deriving DecidableEq, Repr

/-- Where a transmit mismatch falls: at a bit of the start mark, the key or the bytes of an own frame,
counted from its start mark as bit 0 (Table 3-4), or in the VETO slot that a BUSY sender drives (R73, R78).
`appliedSince`: the apply grants that have ended since that frame's turnaround (R79, log entry 7). -/
inductive MismatchBit
  | frame (bit : Nat)
  | vetoSlot (appliedSince : Nat)
  deriving DecidableEq, Repr

/-- The commands: one constructor for each row of the opcode table, in its order; RESET_RELEASE, whose row
names two events, the release of RESET# and the end of the power-on hold, has one for each (R161, log
entry 13). WINDOW_OUTCOME carries the frame as read, the two slots as read, and the apply grants that have
ended since the frame's turnaround (R79, log entry 7). CONTENTION_LOST carries the key bit at which the key was
lost, in the order of the line (R47, R66, log entry 10); unless it is written, it is the first. -/
inductive Instr
  | identify
  | configure (bytes : ConfigBytes)
  | showConfig
  | lock (value : Byte)
  | start
  | detach
  | reset
  | stage (entry : Entry)
  | unstageAll
  | commit (strict : Byte)
  | withdraw
  | results
  | read (first count : Byte)
  | watch (first count setting : Byte)
  | takeChanges
  | peekChanges
  | tableCommandGrant
  | seed
  | refill
  | status
  | peekStatus
  | ackAll
  | dataWrite (byte : Byte)
  | resultRead
  | resultRefill
  | portFlush (value : Byte)
  | hardwareReset (source : ResetSource)
  | resetRelease
  | powerHoldEnd
  | groupApply
  | fdatApply
  | seedApply
  | stepLossClear
  | teardownGrant
  | fdatPayloadRead
  | contentionStart
  | contentionLost (keyBit : Fin 7 := 0)
  | frameTaken
  | truncation
  | transmitMismatch (bit : MismatchBit)
  | windowOutcome (frame : RawFrame) (slots : SlotsRead) (appliedSince : Nat)
  | holdGap
  | holdIntrusion
  | holdLimitExpired
  | restReached
  | lineIdle
  | brokenTake
  | backoffExpiry (slot : CandidateSlot)
  | fillTimerExpiry (chunk : Chunk)
  | keyWon
  | startMarkNotTaken
  | misusedRead
  deriving DecidableEq, Repr

end Sys2Proof
end

