-- ==== Sys2Proof/Machine/Operands.lean ====
section
/-!
DEFINITION. Machine/Operands.lean: the byte layouts of chapter 10 that carry operands: 16-bit values,
the 14-byte update entry, owners, the configuration bytes, the key and the two header bytes.
-/
namespace Sys2Proof.Machine

/-! ### Bytes and values -/

/-- High byte of a 16-bit quantity; it travels first (chapter 10, byte order). -/
def highByte (v : Value) : Byte := v.extractLsb' 8 8

/-- Low byte of a 16-bit quantity. -/
def lowByte (v : Value) : Byte := v.extractLsb' 0 8

/-- A 16-bit quantity from its two bytes, most significant first. -/
def joinBytes (high low : Byte) : Value := high ++ low

/-- A byte whose bit k is `f k` (chapter 10, bit numbering). -/
def packByte (f : Nat → Bool) : Byte :=
  BitVec.ofBoolListLE [f 0, f 1, f 2, f 3, f 4, f 5, f 6, f 7]

/-- The k-th byte of a parameter list. -/
def byteAt (bytes : List Byte) (k : Nat) : Byte := bytes.getD k 0

/-- The k-th and next byte of a list as a 16-bit quantity. -/
def valueAt (bytes : List Byte) (k : Nat) : Value := joinBytes (byteAt bytes k) (byteAt bytes (k + 1))

/-- An owner as a byte: 0xFF for NONE (Table 10-5). -/
def ownerByte : Owner → Byte
  | none => 0xFF
  | some n => BitVec.ofNat 8 n.val

/-- Does a byte name an owner: 0x00..0x1F or 0xFF (Table 10-5)? -/
def isOwnerByte (b : Byte) : Bool := decide (b.toNat < 32) || b == 0xFF

/-- The owner a byte names; a byte that names none reads as NONE (Table 10-5). -/
def ownerOfByte (b : Byte) : Owner :=
  if h : b.toNat < 32 then some ⟨b.toNat, h⟩ else none

/-- The chunk a byte names, if it is 0x00..0x0F (Table 10-3). -/
def chunkOfByte (b : Byte) : Option Chunk :=
  if h : b.toNat < 16 then some ⟨b.toNat, h⟩ else none

/-- The chunk that holds a cell: chunk c holds cells 16c to 16c+15 (R1). -/
def chunkOfCell (i : Byte) : Chunk := ⟨i.toNat / 16, by have := i.isLt; omega⟩

/-! ### Codes of the entry's fields (Table 10-6) -/

def sourceCode : OperandSource → BitVec 1
  | .immediate => 0
  | .cell => 1

def sourceOfCode (c : BitVec 1) : OperandSource :=
  match c with
  | 0#1 => .immediate
  | _ => .cell

def ownerTestCode : OwnerTest → BitVec 2
  | .any => 0
  | .free => 1
  | .mine => 2
  | .freeOrMine => 3

def ownerTestOfCode (c : BitVec 2) : OwnerTest :=
  match c with
  | 0#2 => .any
  | 1#2 => .free
  | 2#2 => .mine
  | _ => .freeOrMine

def ownerActionCode : OwnerAction → BitVec 2
  | .keep => 0
  | .take => 1
  | .drop => 2
  | .illegal => 3

def ownerActionOfCode (c : BitVec 2) : OwnerAction :=
  match c with
  | 0#2 => .keep
  | 1#2 => .take
  | 2#2 => .drop
  | _ => .illegal

def matchCode : MatchFn → BitVec 2
  | .any => 0
  | .never => 1
  | .same => 2
  | .different => 3

def matchOfCode (c : BitVec 2) : MatchFn :=
  match c with
  | 0#2 => .any
  | 1#2 => .never
  | 2#2 => .same
  | _ => .different

/-- Codes of Table 2-2. -/
def magnitudeCode : MagnitudeFn → BitVec 3
  | .any => 0
  | .gt => 1
  | .eq => 2
  | .ge => 3
  | .never => 4
  | .le => 5
  | .ne => 6
  | .lt => 7

def magnitudeOfCode (c : BitVec 3) : MagnitudeFn :=
  match c with
  | 0#3 => .any
  | 1#3 => .gt
  | 2#3 => .eq
  | 3#3 => .ge
  | 4#3 => .never
  | 5#3 => .le
  | 6#3 => .ne
  | _ => .lt

def actionCode : ValueAction → BitVec 3
  | .keep => 0
  | .zero => 1
  | .set => 2
  | .invert => 3
  | .addSat => 4
  | .subSat => 5
  | .addWrap => 6
  | .subWrap => 7

def actionOfCode (c : BitVec 3) : ValueAction :=
  match c with
  | 0#3 => .keep
  | 1#3 => .zero
  | 2#3 => .set
  | 3#3 => .invert
  | 4#3 => .addSat
  | 5#3 => .subSat
  | 6#3 => .addWrap
  | _ => .subWrap

/-- A one-bit field as a Bool. -/
def isSet (b : BitVec 1) : Bool := b == 1#1

/-! ### The update entry, 14 bytes (Table 10-6) -/

/-- Byte 1 of an entry: plain, chain, operand source, owner test, owner action, unused bit 7. -/
def entryByte1 (e : Entry) : Byte :=
  e.unused1 ++ ownerActionCode e.ownerAction ++ ownerTestCode e.ownerTest ++ sourceCode e.source
    ++ BitVec.ofBool e.chain ++ BitVec.ofBool e.plain

/-- Byte 2 of an entry: match function, magnitude function, unused bits 7..5. -/
def entryByte2 (e : Entry) : Byte :=
  e.unused2 ++ magnitudeCode e.magnitudeFn ++ matchCode e.matchFn

/-- Byte 3 of an entry: pass action, fail action, unused bits 7..6. -/
def entryByte3 (e : Entry) : Byte :=
  e.unused3 ++ actionCode e.failAction ++ actionCode e.passAction

/-- The fourteen bytes of an entry, as staged, sent and held (Table 10-6, R159). -/
def entryBytes (e : Entry) : List Byte :=
  [e.cell, entryByte1 e, entryByte2 e, entryByte3 e,
    highByte e.reference, lowByte e.reference, highByte e.operand, lowByte e.operand,
    highByte e.writeMask, lowByte e.writeMask, highByte e.matchMask, lowByte e.matchMask,
    highByte e.magnitudeMask, lowByte e.magnitudeMask]

/-- The entry that fourteen bytes spell (Table 10-6). -/
def entryOfBytes (bytes : List Byte) : Entry :=
  let b1 := byteAt bytes 1
  let b2 := byteAt bytes 2
  let b3 := byteAt bytes 3
  { cell := byteAt bytes 0
    plain := isSet (b1.extractLsb' 0 1)
    chain := isSet (b1.extractLsb' 1 1)
    source := sourceOfCode (b1.extractLsb' 2 1)
    ownerTest := ownerTestOfCode (b1.extractLsb' 3 2)
    ownerAction := ownerActionOfCode (b1.extractLsb' 5 2)
    matchFn := matchOfCode (b2.extractLsb' 0 2)
    magnitudeFn := magnitudeOfCode (b2.extractLsb' 2 3)
    passAction := actionOfCode (b3.extractLsb' 0 3)
    failAction := actionOfCode (b3.extractLsb' 3 3)
    reference := valueAt bytes 4
    operand := valueAt bytes 6
    writeMask := valueAt bytes 8
    matchMask := valueAt bytes 10
    magnitudeMask := valueAt bytes 12
    unused1 := b1.extractLsb' 7 1
    unused2 := b2.extractLsb' 5 3
    unused3 := b3.extractLsb' 6 2 }

/-- The index of the source cell: the low byte of the operand field (R22). -/
def sourceCell (e : Entry) : Byte := lowByte e.operand

/-- The named cells of an entry: its target, and its source cell when the operand source is CELL (R22). -/
def namedCells (e : Entry) : List Byte :=
  match e.source with
  | .immediate => [e.cell]
  | .cell => [e.cell, sourceCell e]

/-- Legality of an entry at a position of its group: none of the four defects of R21. -/
def entryLegal (index : Nat) (e : Entry) : Bool :=
  !(e.ownerAction == .illegal) && !(e.chain && index == 0) && !(e.chain && e.plain)
    && !(e.source == .cell && highByte e.operand != 0)

/-! ### Configuration bytes (Tables 10-11 and 10-12) -/

/-- The nine parameter bytes of CONFIGURE in order. -/
def configByteList (p : ConfigBytes) : List Byte :=
  [p.stationNumber, p.lineRate, p.flags, p.retryLimit, p.fillTimeout, p.attnMask,
    p.stationComplement, p.rateComplement, p.flagsComplement]

/-- Nine parameter bytes as a record. -/
def configBytesOf (bytes : List Byte) : ConfigBytes :=
  { stationNumber := byteAt bytes 0, lineRate := byteAt bytes 1, flags := byteAt bytes 2,
    retryLimit := byteAt bytes 3, fillTimeout := byteAt bytes 4, attnMask := byteAt bytes 5,
    stationComplement := byteAt bytes 6, rateComplement := byteAt bytes 7,
    flagsComplement := byteAt bytes 8 }

/-- Is every field of a CONFIGURE in range (R144)? -/
def configInRange (p : ConfigBytes) : Bool :=
  decide (p.stationNumber.toNat ≤ 31) && decide (p.lineRate.toNat ≤ 3)
    && p.flags.extractLsb' 5 3 == 0#3 && decide (p.retryLimit.toNat ≤ 15) && p.fillTimeout != 0
    && p.stationComplement == ~~~p.stationNumber && p.rateComplement == ~~~p.lineRate
    && p.flagsComplement == ~~~p.flags

/-- The record that nine bytes in range describe (Tables 10-11 and 10-12). -/
def configRecordOf (p : ConfigBytes) : ConfigRecord :=
  { station := Fin.ofNat 32 p.stationNumber.toNat
    rate := Fin.ofNat 4 p.lineRate.toNat
    quiet := p.flags.getLsbD 0
    solo := p.flags.getLsbD 1
    autoFill := p.flags.getLsbD 2
    impliedFill := p.flags.getLsbD 3
    attnMode := if p.flags.getLsbD 4 then .level else .edge
    retryLimit := Fin.ofNat 16 p.retryLimit.toNat
    fillTimeout := p.fillTimeout
    attnMask := p.attnMask }

/-- The flags byte of a record (Table 10-12). -/
def flagsByte (c : ConfigRecord) : Byte :=
  0#3 ++ BitVec.ofBool (c.attnMode == .level) ++ BitVec.ofBool c.impliedFill
    ++ BitVec.ofBool c.autoFill ++ BitVec.ofBool c.solo ++ BitVec.ofBool c.quiet

/-- The nine bytes that describe a record, in the order of CONFIGURE (R145). -/
def configBytesFor (c : ConfigRecord) : ConfigBytes :=
  let station := BitVec.ofNat 8 c.station.val
  let rate := BitVec.ofNat 8 c.rate.val
  let flags := flagsByte c
  { stationNumber := station, lineRate := rate, flags := flags,
    retryLimit := BitVec.ofNat 8 c.retryLimit.val, fillTimeout := c.fillTimeout,
    attnMask := c.attnMask, stationComplement := ~~~station, rateComplement := ~~~rate,
    flagsComplement := ~~~flags }

/-! ### Key and header (Tables 10-1 to 10-3) -/

/-- The class number of a frame kind: CONTROL 0, UPDATE 1, FILL 2 (R48, Table 3-3). -/
def kindClass : FrameKind → BitVec 2
  | .seed => 0
  | .freq => 0
  | .fdat => 2
  | .upd => 1

/-- The kind code of H1 bits 7..6 (Table 10-2). -/
def kindCode : FrameKind → BitVec 2
  | .seed => 0
  | .freq => 1
  | .fdat => 2
  | .upd => 3

/-- The kind named by H1 (Table 10-2). -/
def kindOfH1 (h1 : Byte) : FrameKind :=
  match h1.extractLsb' 6 2 with
  | 0#2 => .seed
  | 1#2 => .freq
  | 2#2 => .fdat
  | _ => .upd

/-- Payload bytes of a kind (Table 3-3). -/
def payloadLength : FrameKind → Nat
  | .seed => 0
  | .freq => 1
  | .fdat => 65
  | .upd => 14

/-- The key: class times 32 plus the station number (R48). -/
def frameKey (kind : FrameKind) (station : Station) : BitVec 7 :=
  kindClass kind ++ BitVec.ofNat 5 station.val

/-- The class bits of a key (Table 10-1). -/
def keyClass (key : BitVec 7) : BitVec 2 := key.extractLsb' 5 2

/-- The station number of a key (Table 10-1). -/
def keyStation (key : BitVec 7) : Station := Fin.ofNat 32 (key.extractLsb' 0 5).toNat

/-- The key as the one byte the check takes: its top bit is 0 (R50, Table 10-1). -/
def keyByte (key : BitVec 7) : Byte := 0#1 ++ key

/-- H1: kind, sender in-step flag, last flag, strict flag, group index (Table 10-2). -/
def headerByte (kind : FrameKind) (inStep last strict : Bool) (index : BitVec 3) : Byte :=
  kindCode kind ++ BitVec.ofBool inStep ++ BitVec.ofBool last ++ BitVec.ofBool strict ++ index

/-- The sender in-step flag of H1. -/
def h1InStep (h1 : Byte) : Bool := h1.getLsbD 5

/-- The last flag of H1. -/
def h1Last (h1 : Byte) : Bool := h1.getLsbD 4

/-- The strict flag of H1. -/
def h1Strict (h1 : Byte) : Bool := h1.getLsbD 3

/-- The group index of H1. -/
def h1Index (h1 : Byte) : BitVec 3 := h1.extractLsb' 0 3

end Sys2Proof.Machine
end

