-- ==== Sys2Proof/Machine/State.lean ====
section
/-!
DEFINITION. Machine/State.lean: all the state the manual gives the U340, as plain data, block by
block; State.reset, the part right after a hardware reset; and the reasons a step can stop.
-/
namespace Sys2Proof.Machine

/-! ### The replica (chapter 1) -/

/-- Cell record (Table 1-1). -/
structure CellRecord where
  value : Value
  owner : Owner
  /-- change count, modulo 256 -/
  seq : Byte
  deriving DecidableEq, Repr

/-- Value 0, owner NONE, seq 0. -/
def CellRecord.zero : CellRecord := { value := 0, owner := none, seq := 0 }

/-- A cell: its record and its local part (R2). `known` is the status KNOWN. -/
structure Cell where
  record : CellRecord
  known : Bool
  watch : Bool
  changed : Bool
  deriving DecidableEq, Repr

/-- A cell after a reset (Table 1-2). -/
def Cell.initial : Cell := { record := .zero, known := false, watch := false, changed := false }

/-- The replica: 256 cells, cell i at place i (R1). -/
structure Table where
  cells : List Cell
  size : cells.length = 256
  deriving DecidableEq, Repr

/-- The replica after a reset (Table 1-2). -/
def Table.initial : Table :=
  { cells := List.replicate 256 Cell.initial, size := List.length_replicate }

/-- The sixteen records of a chunk, in cell order (R49, Table 1-3). -/
structure ChunkData where
  records : List CellRecord
  size : records.length = 16
  deriving DecidableEq, Repr

/-! ### Items, grants and claims (chapter 1) -/

/-- A group item of the apply list (Table 1-3). -/
structure GroupItem where
  sender : Station
  strict : Bool
  entries : List Entry
  /-- the own mark (R9) -/
  own : Bool
  deriving DecidableEq, Repr

/-- An item of the apply list (R9). -/
inductive Item
  | group (g : GroupItem)
  | fdat (chunk : Chunk) (data : ChunkData)
  | seed
  deriving DecidableEq, Repr

/-- A table command that has taken its parameters (R15 to R19). -/
inductive TableOp
  | read (first count : Byte)
  | watch (first count : Byte) (on : Bool)
  | take
  | peek
  deriving DecidableEq, Repr

/-- A third-rank claim: a table command's access or a refill of a streamed result (R13). -/
inductive PortClaim
  | command (op : TableOp)
  | refill
  deriving DecidableEq, Repr

/-- A grant of the table port that is running (Table 1-4). -/
inductive Grant
  | teardown
  | stepLossClear
  | apply
  | fdatRead (chunk : Chunk)
  | port (claim : PortClaim)
  deriving DecidableEq, Repr

/-! ### Local Port (chapter 8) -/

/-- The commands of Table 10-18. -/
inductive Opcode
  | identify
  | configure
  | showConfig
  | lock
  | start
  | detach
  | reset
  | stage
  | unstageAll
  | commit
  | withdraw
  | results
  | read
  | watch
  | takeChanges
  | peekChanges
  | seed
  | refill
  | status
  | peekStatus
  | ackAll
  deriving DecidableEq, Repr

/-- Port phase (R136). -/
inductive Phase
  | command
  | execution
  | result
  deriving DecidableEq, Repr

/-- What a command in EXECUTION waits for (Table 8-2). -/
inductive Wait
  | grant
  | startTeardown
  | detachTeardown
  | seedSlot
  deriving DecidableEq, Repr

/-- The command in progress (R136). -/
structure CommandInProgress where
  op : Opcode
  needed : Nat
  received : Nat
  wait : Option Wait
  deriving DecidableEq, Repr

/-- The Local Port's state (R136). -/
structure Port where
  phase : Phase
  /-- parameter bytes taken, in COMMAND; result bytes to be read, in RESULT -/
  fifo : List Byte
  command : Option CommandInProgress
  /-- result bytes not yet moved into the FIFO -/
  snapshot : List Byte
  deriving DecidableEq, Repr

/-- The port in COMMAND with nothing in progress (R136). -/
def Port.idle : Port := { phase := .command, fifo := [], command := none, snapshot := [] }

/-- Kinds of port misuse (Table 8-4). -/
inductive Misuse
  | readInCommand
  | writeInResult
  | writeNotReady
  | readNotReady
  deriving DecidableEq, Repr

/-! ### Commit Unit (chapters 2 and 7) -/

/-- States of a committed group (R119). -/
inductive GroupState
  | waitFill
  | queued
  | contending
  | sending
  | backoff
  deriving DecidableEq, Repr

/-- The committed group (R119). -/
structure CommittedGroup where
  entries : List Entry
  strict : Bool
  state : GroupState
  deriving DecidableEq, Repr

/-- Outcomes of an entry (Table 2-4). -/
inductive EntryOutcome
  | passed
  | failed
  | skipped
  | undetermined
  | notReached
  deriving DecidableEq, Repr

/-- A result record (R41). -/
structure ResultRecord where
  outcome : EntryOutcome
  oldValue : Value
  newValue : Value
  oldOwner : Owner
  newOwner : Owner
  newSeq : Byte
  deriving DecidableEq, Repr

/-- A NOT-REACHED record (Table 2-5). -/
def ResultRecord.notReached : ResultRecord :=
  { outcome := .notReached, oldValue := 0, newValue := 0, oldOwner := none, newOwner := none,
    newSeq := 0 }

/-- Group status of the results list (R132). -/
inductive GroupStatus
  | none
  | pending
  | applied
  | void
  | undetermined
  | rejected
  | withdrawn
  | fillFailed
  | dropped
  deriving DecidableEq, Repr

/-- The results list (R119, R132); its entry count is the number of its records. -/
structure Results where
  status : GroupStatus
  attempts : Nat
  records : List ResultRecord
  deriving DecidableEq, Repr

/-- The results list after a reset (Table 7-1). -/
def Results.initial : Results := { status := .none, attempts := 0, records := [] }

/-! ### Line Access Unit (chapter 4) -/

/-- Link states (Table 4-1). -/
inductive Link
  | off
  | listen
  | receiving
  | contending
  | sending
  | holding
  deriving DecidableEq, Repr

/-- A line level (R44). -/
inductive Level
  | dominant
  | recessive
  deriving DecidableEq, Repr

/-- What an own frame carries; an FDAT's records are the copy `fdatCopy` (R67, R68). -/
inductive TxBody
  | seed
  | freq (chunk : Chunk)
  | upd (entry : Entry)
  | fdat (chunk : Chunk)
  deriving DecidableEq, Repr

/-- The candidate and frame fixed at the start mark (R65, R67); in HOLDING, the frame just accepted. -/
structure TxFrame where
  station : Station
  inStep : Bool
  last : Bool
  strict : Bool
  index : BitVec 3
  body : TxBody
  deriving DecidableEq, Repr

/-- The request slot's backoff timer: the chunk whose FREQ failed and the duration in tb (R72). -/
structure RequestTimer where
  chunk : Chunk
  tb : Nat
  deriving DecidableEq, Repr

/-! ### Delivery Unit (chapters 3 and 5) -/

/-- Framing states of an attached station (R52); `off` is no framing state.
`search n`: n is the recessive count at the last event that fixed it (log entry 4).
`gap late`: late when the hold limit has passed. -/
inductive Framing
  | off
  | search (recessive : Nat)
  | rest
  | taking
  | gap (late : Bool)
  deriving DecidableEq, Repr

/-- Payload of a SOUND frame (R49). -/
inductive FrameBody
  | seed
  | freq (chunk : Chunk)
  | fdat (chunk : Chunk) (data : ChunkData)
  | upd (entry : Entry)
  deriving DecidableEq, Repr

/-- Contents of a SOUND frame (R54); its class is its kind's (Table 3-3). -/
structure Frame where
  sender : Station
  inStep : Bool
  last : Bool
  strict : Bool
  index : BitVec 3
  body : FrameBody
  deriving DecidableEq, Repr

/-- Verdict on a frame read to its window (R54). A TRUNCATED frame is abandoned (R56). -/
inductive Verdict
  | sound (frame : Frame)
  | faulty
  deriving DecidableEq, Repr

/-- The receive frame record: whether the frame is this station's own (R55, R60), and its verdict. -/
structure RxFrame where
  own : Bool
  verdict : Option Verdict
  deriving DecidableEq, Repr

/-- The window slot chosen in the turnaround (Table 5-1). -/
inductive SlotChoice
  | accept
  | veto
  | neither
  deriving DecidableEq, Repr

/-- The window outcome (R80). -/
inductive WindowOutcome
  | rejected
  | accepted
  | unheard
  deriving DecidableEq, Repr

/-- An open group of the group buffer (R81). -/
structure OpenGroup where
  key : BitVec 7
  strict : Bool
  entries : List Entry
  deriving DecidableEq, Repr

/-! ### Catch-up Unit (chapter 6) -/

/-- Station states (Table 6-1). -/
inductive StationState
  | offline
  | catchingUp
  | inStep
  | faulted
  deriving DecidableEq, Repr

/-- States of a request list entry (R102). -/
inductive RequestState
  | wanted
  | asked
  deriving DecidableEq, Repr

/-- A request list entry (R102); `fillTimer` is the running timer's duration in ms. -/
structure Request where
  chunk : Chunk
  state : RequestState
  attempts : Nat
  fillTimer : Option Nat
  deriving DecidableEq, Repr

/-! ### Attention Unit (chapter 9) -/

/-- Attention causes in rank order (Table 9-1). -/
inductive Cause
  | fault
  | notInStep
  | diverge
  | fillFail
  | inStep
  | done
  | watch
  | portError
  deriving DecidableEq, Repr

/-- One thing for each of the eight causes (R150). -/
structure PerCause (α : Type) where
  fault : α
  notInStep : α
  diverge : α
  fillFail : α
  inStep : α
  done : α
  watch : α
  portError : α
  deriving DecidableEq, Repr

/-- No cause latched (Table 9-2). -/
def PerCause.clear : PerCause Bool :=
  { fault := false, notInStep := false, diverge := false, fillFail := false, inStep := false,
    done := false, watch := false, portError := false }

/-- The details after a reset: 0, NOT-IN-STEP 16 (Table 9-2). -/
def PerCause.resetDetails : PerCause Byte :=
  { fault := 0, notInStep := 16, diverge := 0, fillFail := 0, inStep := 0, done := 0, watch := 0,
    portError := 0 }

/-! ### The whole state -/

/-- The state of one U340, and the queue of the commands that wait for it. -/
structure State where
  /-- waiting commands, first in first out (the model's own) -/
  pending : List Instr
  -- pins (chapter 12)
  /-- RESET# holds the part in reset: low for 1 µs or longer, and not released (R149, R161) -/
  resetAsserted : Bool
  /-- the part holds itself in reset: power-on or a supply dip, and not yet released (R161) -/
  powerHold : Bool
  /-- the levels TXD carried over the bits that the last line step closed, the last at that step's own
  bit (R160, log entry 10) -/
  txd : List Level
  /-- what the last data read returned (the model's own, log entry 10) -/
  dataOut : Option Byte
  -- Configuration Store (R143)
  config : ConfigRecord
  lock : Bool
  -- Local Port (R136)
  port : Port
  -- Table Engine (chapter 1)
  table : Table
  /-- unknown-chunk summary: the chunks that hold an UNKNOWN cell, in order (R5) -/
  unknownChunks : List Chunk
  /-- apply list, head first (R8) -/
  items : List Item
  /-- items that left the apply list since the start mark of the frame being taken (R79, log entry 7) -/
  appliedSinceMark : Nat
  /-- pending step-loss clear: the count of items still ahead of it (R11) -/
  pendingClear : Option Nat
  /-- last divergence count (R114) -/
  lastDivergence : Nat
  /-- a discarded own group item whose DROPPED results the teardown grant writes: its entry count (R12) -/
  discardedOwn : Option Nat
  -- table port arbiter (R13)
  running : Option Grant
  /-- the running grant's result goes nowhere (R15, R68) -/
  runningDiscarded : Bool
  fdatClaim : Option Chunk
  portClaim : Option PortClaim
  -- Commit Unit (R119)
  staging : List Entry
  committed : Option CommittedGroup
  applyPending : Bool
  results : Results
  /-- needed chunks of a group in WAIT-FILL, in order (R119) -/
  needed : List Chunk
  -- Line Access Unit (R61)
  link : Link
  txFrame : Option TxFrame
  /-- the records copied for the own FDAT on the line (R14) -/
  fdatCopy : Option ChunkData
  seedAttempts : Nat
  groupAttempts : Nat
  answerAttempts : Nat
  /-- running backoff timers with their durations in tb (R72) -/
  seedTimer : Option Nat
  requestTimer : Option RequestTimer
  groupTimer : Option Nat
  answerTimer : Option Nat
  yield : Bool
  /-- mismatch count, 0..4 (R74) -/
  mismatch : Nat
  -- Delivery Unit (R81)
  framing : Framing
  rxFrame : Option RxFrame
  windowDecision : Option SlotChoice
  groupBuffer : Option OpenGroup
  /-- a frame was abandoned and 12 tb of recessive have not passed since (R93) -/
  takeAbandoned : Bool
  -- Catch-up Unit (R96)
  station : StationState
  /-- request list, ordered by chunk (R102) -/
  requests : List Request
  /-- answer list, head first (R109) -/
  answers : List Chunk
  seedSlot : Bool
  teardownPending : Bool
  -- Attention Unit (R150)
  latches : PerCause Bool
  details : PerCause Byte
  attnMode : AttnMode
  attnMask : Byte
  /-- the ATTN pin is asserted -/
  attn : Bool
  deriving DecidableEq, Repr

/-- The part right after a hardware reset: every value is the one its table gives (Tables 1-2, 4-2,
5-3, 6-2, 7-1, 8-6, 9-2; R136, R149, R160, R161). `dataOut` and `appliedSinceMark` are the model's own
(log entries 10 and 7). -/
def State.reset : State :=
  { pending := []
    resetAsserted := false
    powerHold := false
    txd := [.recessive]
    dataOut := none
    config := Config.defaultRecord
    lock := false
    port := .idle
    table := .initial
    unknownChunks := allChunks
    items := []
    appliedSinceMark := 0
    pendingClear := none
    lastDivergence := 0
    discardedOwn := none
    running := none
    runningDiscarded := false
    fdatClaim := none
    portClaim := none
    staging := []
    committed := none
    applyPending := false
    results := .initial
    needed := []
    link := .off
    txFrame := none
    fdatCopy := none
    seedAttempts := 0
    groupAttempts := 0
    answerAttempts := 0
    seedTimer := none
    requestTimer := none
    groupTimer := none
    answerTimer := none
    yield := false
    mismatch := 0
    framing := .off
    rxFrame := none
    windowDecision := none
    groupBuffer := none
    takeAbandoned := false
    station := .offline
    requests := []
    answers := []
    seedSlot := false
    teardownPending := false
    latches := .clear
    details := .resetDetails
    attnMode := .edge
    attnMask := 0
    attn := false }

/-- Why the machine stops. Every reason is a row presented in a state to which the manual says its
event does not come, so no real run meets one; each is safe (log entry 3). -/
inductive Fault
  /-- raised by the grant rows when the arbiter is not running the grant the row ends (R13); safe -/
  | grantNotRunning
  /-- raised by line rows when Table 4-3 lists no such event for the link state (R62), and by
  TRANSMIT_MISMATCH at a bit this station does not drive (R73, log entry 14); safe -/
  | linkState
  /-- raised by line rows when Table 3-7 lists no such event for the framing state (R52); safe -/
  | framingState
  /-- raised by BROKEN_TAKE when no frame was abandoned within the last 12 tb (R93); safe -/
  | noBrokenTake
  /-- raised by the timer rows when the timer is stopped (R72, R107); safe -/
  | timerStopped
  /-- raised by WINDOW_OUTCOME on a frame whose length is not its kind's (R54); safe -/
  | frameLength
  /-- raised by WINDOW_OUTCOME on an own FDAT whose payload read has not ended (R14); safe -/
  | payloadNotRead
  /-- raised by CONTENTION_LOST at a dominant key bit, which cannot lose (R66); safe -/
  | keyCannotLose
  /-- raised by WINDOW_OUTCOME when RXD does not show the slot this station drove (R80, R73); safe -/
  | slotNotRead
  deriving DecidableEq, Repr

/-- Why a command has no meaning in the model. -/
inductive Refusal
  /-- an instruction not yet modelled, by its mnemonic; safe. No arm raises it. -/
  | notModelled (mnemonic : String)
  deriving DecidableEq, Repr

end Sys2Proof.Machine
end

