-- ==== Sys2Proof/Machine/Replica.lean ====
section
/-!
DEFINITION. Machine/Replica.lean: reading and writing the cells of the replica. Every access to a
cell goes through here.
-/
namespace Sys2Proof.Machine

/-- Cell i of the replica (R1). -/
def cellAt (t : Table) (i : Byte) : Cell :=
  t.cells[i.toNat]'(by have := i.isLt; have := t.size; omega)

/-- The replica with cell i replaced. -/
def setCell (t : Table) (i : Byte) (c : Cell) : Table :=
  { cells := t.cells.set i.toNat c, size := by simp [t.size] }

/-- The replica with every cell replaced by `f` of its index and contents. -/
def mapCells (f : Byte → Cell → Cell) (t : Table) : Table :=
  { cells := List.zipWith (fun n c => f (BitVec.ofNat 8 n) c) (List.range 256) t.cells
    size := by simp [t.size] }

/-- The sixteen cells of a chunk, in cell order (R1). -/
def chunkCells (t : Table) (c : Chunk) : List Cell := (t.cells.drop (16 * c.val)).take 16

/-- Does a chunk hold an UNKNOWN cell (R5)? -/
def chunkUnknown (t : Table) (c : Chunk) : Bool := (chunkCells t c).any fun cell => !cell.known

/-- The unknown-chunk summary of a replica: the chunks that hold an UNKNOWN cell, in order (R5). -/
def unknownSummary (t : Table) : List Chunk := allChunks.filter (chunkUnknown t)

/-- The records of a chunk, as an FDAT carries them (R14, R49). -/
def chunkData (t : Table) (c : Chunk) : ChunkData :=
  { records := (chunkCells t c).map Cell.record
    size := by have := c.isLt; simp [chunkCells, t.size]; omega }

/-- A cell becoming UNKNOWN (R4): a KNOWN cell takes 0, NONE, 0 and its changed mark and keeps its
watch flag; an UNKNOWN cell is left as it is. -/
def unknownCell (c : Cell) : Cell :=
  if c.known then { record := .zero, known := false, watch := c.watch, changed := true } else c

/-- One cell of the replica becoming UNKNOWN (R4). -/
def makeUnknown (t : Table) (i : Byte) : Table := setCell t i (unknownCell (cellAt t i))

/-- Every cell becoming UNKNOWN: the step-loss clear and the teardown (R11, R12). -/
def clearAll (t : Table) : Table := mapCells (fun _ c => unknownCell c) t

/-- A cell that takes a record as KNOWN: its changed mark is set if it was UNKNOWN or its record
differs, its watch flag is kept (R113, R117). -/
def adoptRecord (r : CellRecord) (c : Cell) : Cell :=
  { record := r, known := true, watch := c.watch,
    changed := c.changed || !c.known || c.record != r }

/-- The record an FDAT carries for cell i of its chunk (R113). -/
def carriedRecord (d : ChunkData) (i : Byte) : CellRecord :=
  d.records[i.toNat % 16]'(by have := d.size; omega)

/-- The replica after the adoption of a chunk (R113); other chunks are not touched. -/
def adoptChunk (t : Table) (c : Chunk) (d : ChunkData) : Table :=
  mapCells (fun i cell => if chunkOfCell i = c then adoptRecord (carriedRecord d i) cell else cell) t

/-- Divergences in a chunk: KNOWN cells whose record differs from the carried one (R114). -/
def divergences (t : Table) (c : Chunk) (d : ChunkData) : Nat :=
  (List.zip (chunkCells t c) d.records).countP fun p => p.1.known && p.1.record != p.2

/-- The replica after a SEED: every cell 0, NONE, 0 and KNOWN (R117). -/
def seedAll (t : Table) : Table := mapCells (fun _ c => adoptRecord .zero c) t

/-- Is cell i in the range of n cells that begins at cell `first`? -/
def inRange (first : Byte) (n : Nat) (i : Byte) : Bool :=
  decide (first.toNat ≤ i.toNat) && decide (i.toNat < first.toNat + n)

/-- WATCH: the watch flags of a range turned on or off (R17). -/
def setWatch (t : Table) (first : Byte) (n : Nat) (on : Bool) : Table :=
  mapCells (fun i c => if inRange first n i then { c with watch := on } else c) t

/-- TAKE CHANGES: every changed mark cleared (R18). -/
def clearChanged (t : Table) : Table := mapCells (fun _ c => { c with changed := false }) t

/-- The chunks that hold a cell KNOWN before and UNKNOWN after a grant, in order (R4). -/
def lostChunks (before after : Table) : List Chunk :=
  allChunks.filter fun c =>
    (List.zip (chunkCells before c) (chunkCells after c)).any fun p => p.1.known && !p.2.known

/-- Did any cell become KNOWN in a grant (R5)? -/
def anyGained (before after : Table) : Bool :=
  (List.zip before.cells after.cells).any fun p => !p.1.known && p.2.known

end Sys2Proof.Machine
end

