-- ==== Sys2Proof/Machine/Evaluate.lean ====
section
/-!
DEFINITION. Machine/Evaluate.lean: chapter 2, the evaluation of an update entry and of a group
against a replica, and the result records it yields.
-/
namespace Sys2Proof.Machine

/-! ### Tests (R22 to R26) -/

/-- The operand of an entry's value action, at this moment of the evaluation (R22). -/
def operandValue (t : Table) (e : Entry) : Value :=
  match e.source with
  | .immediate => e.operand
  | .cell => (cellAt t (sourceCell e)).record.value

/-- The match test (R23). -/
def matchPasses (e : Entry) (v : Value) : Bool :=
  match e.matchFn with
  | .any => true
  | .never => false
  | .same => v &&& e.matchMask == e.reference &&& e.matchMask
  | .different => v &&& e.matchMask != e.reference &&& e.matchMask

/-- A magnitude function on the masked value and the masked reference, unsigned (Table 2-2). -/
def magnitudeHolds (f : MagnitudeFn) (v r : Nat) : Bool :=
  match f with
  | .any => true
  | .gt => decide (v > r)
  | .eq => decide (v = r)
  | .ge => decide (v ≥ r)
  | .never => false
  | .le => decide (v ≤ r)
  | .ne => decide (v ≠ r)
  | .lt => decide (v < r)

/-- The magnitude test (R24). -/
def magnitudePasses (e : Entry) (v : Value) : Bool :=
  magnitudeHolds e.magnitudeFn (v &&& e.magnitudeMask).toNat (e.reference &&& e.magnitudeMask).toNat

/-- The owner test, with the sender of the group (R25). -/
def ownerPasses (e : Entry) (sender : Station) (owner : Owner) : Bool :=
  match e.ownerTest with
  | .any => true
  | .free => owner == none
  | .mine => owner == some sender
  | .freeOrMine => owner == none || owner == some sender

/-- The three tests of a non-plain entry together (R26). -/
def testsPass (e : Entry) (sender : Station) (r : CellRecord) : Bool :=
  matchPasses e r.value && magnitudePasses e r.value && ownerPasses e sender r.owner

/-! ### Actions (R27 to R30) -/

/-- The full 16-bit result of a value action (Table 2-3). -/
def actionResult (a : ValueAction) (v operand : Value) : Value :=
  match a with
  | .keep => v
  | .zero => 0
  | .set => operand
  | .invert => ~~~v
  | .addSat => if v.toNat + operand.toNat > 65535 then 0xFFFF else v + operand
  | .subSat => if operand.toNat > v.toNat then 0 else v - operand
  | .addWrap => v + operand
  | .subWrap => v - operand

/-- A result merged into the old value through a write mask (R28). -/
def mergeMask (mask old result : Value) : Value := (result &&& mask) ||| (old &&& ~~~mask)

/-- The write mask an entry uses: 0xFFFF for a plain entry (R26, R28). -/
def effectiveMask (e : Entry) : Value := if e.plain then 0xFFFF else e.writeMask

/-- The owner after a PASSED entry's owner action (R29). A plain entry takes none. The illegal code
never reaches an item (R21); it is read here as KEEP. -/
def passOwner (e : Entry) (sender : Station) (old : Owner) : Owner :=
  if e.plain then old else
  match e.ownerAction with
  | .keep => old
  | .take => some sender
  | .drop => none
  | .illegal => old

/-- Write a value and owner to a cell: seq rises and the changed mark is set exactly when the value
or the owner changes (R30). -/
def writeCell (t : Table) (i : Byte) (value : Value) (owner : Owner) : Table :=
  let old := cellAt t i
  if value = old.record.value ∧ owner = old.record.owner then t
  else setCell t i
    { old with
      record := { value := value, owner := owner, seq := old.record.seq + 1 }
      changed := true }

/-! ### Outcomes (R31 to R33) -/

/-- Is every named cell of an entry KNOWN (R31 third step, R122)? -/
def namedKnown (t : Table) (e : Entry) : Bool := (namedCells e).all fun i => (cellAt t i).known

/-- The outcome of a reached entry, by the four steps of R31; `prev` is its predecessor's. -/
def decideOutcome (t : Table) (sender : Station) (prev : Option EntryOutcome) (e : Entry) :
    EntryOutcome :=
  if e.chain && prev == some .undetermined then .undetermined
  else if e.chain && (prev == some .failed || prev == some .skipped) then .skipped
  else if !namedKnown t e then .undetermined
  else if e.plain || testsPass e sender (cellAt t e.cell).record then .passed
  else .failed

/-- What an entry with a given outcome does to the replica it is evaluated on (R35). -/
def entryEffect (t : Table) (sender : Station) (e : Entry) : EntryOutcome → Table
  | .passed =>
    let old := (cellAt t e.cell).record
    writeCell t e.cell
      (mergeMask (effectiveMask e) old.value (actionResult e.passAction old.value (operandValue t e)))
      (passOwner e sender old.owner)
  | .failed =>
    let old := (cellAt t e.cell).record
    writeCell t e.cell
      (mergeMask e.writeMask old.value (actionResult e.failAction old.value (operandValue t e)))
      old.owner
  | .skipped => t
  | .undetermined => makeUnknown t e.cell
  | .notReached => t

/-- A result record from the target before and after its entry (R41, Table 2-5). -/
def recordOf (outcome : EntryOutcome) (before after : CellRecord) : ResultRecord :=
  { outcome := outcome, oldValue := before.value, newValue := after.value,
    oldOwner := before.owner, newOwner := after.owner, newSeq := after.seq }

/-! ### Groups (R34 to R38) -/

/-- What the evaluation of a group yields: the replica after it, its status, its records, and the
targets of its watch hits in entry order. -/
structure Evaluation where
  table : Table
  status : GroupStatus
  records : List ResultRecord
  hits : List Byte
  deriving DecidableEq, Repr

/-- A non-strict group's entries, evaluated directly on the replica in index order (R35). -/
def runEntries (sender : Station) : Option EntryOutcome → List Entry → Table → Table × List ResultRecord
  | _, [], t => (t, [])
  | prev, e :: es, t =>
    let outcome := decideOutcome t sender prev e
    let t' := entryEffect t sender e outcome
    let rest := runEntries sender (some outcome) es t'
    (rest.1, recordOf outcome (cellAt t e.cell).record (cellAt t' e.cell).record :: rest.2)

/-- Targets of the PASSED entries whose watch flag is on, in entry order (R7, R39). -/
def watchHits (t : Table) (entries : List Entry) (records : List ResultRecord) : List Byte :=
  (List.zip entries records).filterMap fun p =>
    if p.2.outcome = .passed ∧ (cellAt t p.1.cell).watch then some p.1.cell else none

/-- A non-strict group (R35, R42). -/
def runNonStrict (sender : Station) (entries : List Entry) (t : Table) : Evaluation :=
  let r := runEntries sender none entries t
  { table := r.1
    status := if r.2.any fun x => x.outcome == .undetermined then .undetermined else .applied
    records := r.2
    hits := watchHits t entries r.2 }

/-- A strict group's entries on the working copy, to the first that does not end PASSED (R36 to R38):
the copy, the status and the records. -/
def runStrictEntries (sender : Station) :
    Option EntryOutcome → List Entry → Table → Table × GroupStatus × List ResultRecord
  | _, [], t => (t, .applied, [])
  | prev, e :: es, t =>
    let old := (cellAt t e.cell).record
    let outcome := decideOutcome t sender prev e
    if outcome = .passed then
      let t' := entryEffect t sender e .passed
      let rest := runStrictEntries sender (some .passed) es t'
      (rest.1, rest.2.1, recordOf .passed old (cellAt t' e.cell).record :: rest.2.2)
    else
      (t, if outcome = .undetermined then .undetermined else .void,
        recordOf outcome old old :: List.replicate es.length ResultRecord.notReached)

/-- The replica taking the working copy's records: changed marks on the cells whose record differs,
statuses and watch flags as they were (R36). -/
def takeCopy (replica copy : Table) : Table :=
  mapCells (fun i c =>
    let r := (cellAt copy i).record
    { c with record := r, changed := c.changed || r != c.record }) replica

/-- Every target of a group becoming UNKNOWN (R38). -/
def loseTargets (entries : List Entry) (t : Table) : Table :=
  entries.foldl (fun t e => makeUnknown t e.cell) t

/-- A strict group (R36 to R38). -/
def runStrict (sender : Station) (entries : List Entry) (t : Table) : Evaluation :=
  let r := runStrictEntries sender none entries t
  match r.2.1 with
  | .applied =>
    { table := takeCopy t r.1, status := .applied, records := r.2.2
      hits := watchHits t entries r.2.2 }
  | .undetermined =>
    { table := loseTargets entries t, status := .undetermined, records := r.2.2, hits := [] }
  | status => { table := t, status := status, records := r.2.2, hits := [] }

/-- The evaluation of a group item against the replica (R34). -/
def evaluateGroup (g : GroupItem) (t : Table) : Evaluation :=
  if g.strict then runStrict g.sender g.entries t else runNonStrict g.sender g.entries t

end Sys2Proof.Machine
end

