-- ==== Sys2Proof/Machine/Flags.lean ====
section
/-!
DEFINITION. Machine/Flags.lean: the Attention Unit (chapter 9): the eight cause latches and their
details, the mask and the ATTN pin; and the codes by which states and causes are reported.
-/
namespace Sys2Proof.Machine

/-! ### Codes -/

/-- The code, and rank, of a cause (Table 9-1). -/
def causeCode : Cause → Nat
  | .fault => 0
  | .notInStep => 1
  | .diverge => 2
  | .fillFail => 3
  | .inStep => 4
  | .done => 5
  | .watch => 6
  | .portError => 7

/-- The causes in rank order, the highest first (Table 9-1). -/
def causesByRank : List Cause :=
  [.fault, .notInStep, .diverge, .fillFail, .inStep, .done, .watch, .portError]

/-- Codes of the group status and of DONE's detail (Table 10-8). -/
def groupStatusCode : GroupStatus → Byte
  | .none => 0x00
  | .applied => 0x01
  | .void => 0x02
  | .undetermined => 0x03
  | .rejected => 0x04
  | .withdrawn => 0x05
  | .fillFailed => 0x06
  | .dropped => 0x07
  | .pending => 0x80

/-- Codes of an entry's outcome (Table 10-7). -/
def outcomeCode : EntryOutcome → Byte
  | .passed => 0
  | .failed => 1
  | .skipped => 2
  | .undetermined => 3
  | .notReached => 4

/-- Codes of the station state (Table 10-13). -/
def stationCode : StationState → BitVec 2
  | .offline => 0
  | .catchingUp => 1
  | .inStep => 2
  | .faulted => 3

/-- Codes of the committed group state; 0 is NONE (Table 10-16). -/
def groupStateCode : Option GroupState → Byte
  | none => 0
  | some .waitFill => 1
  | some .queued => 2
  | some .contending => 3
  | some .sending => 4
  | some .backoff => 5

/-- Codes of the kinds of port misuse (Table 10-15). -/
def misuseCode : Misuse → Byte
  | .readInCommand => 0x01
  | .writeInResult => 0x02
  | .writeNotReady => 0x03
  | .readNotReady => 0x04

/-- Codes of the port phase (Table 10-13). -/
def phaseCode : Phase → BitVec 2
  | .command => 0
  | .execution => 1
  | .result => 2

/-! ### Latches and details -/

/-- What a record holds for a cause. -/
def causeGet {α : Type} (p : PerCause α) : Cause → α
  | .fault => p.fault
  | .notInStep => p.notInStep
  | .diverge => p.diverge
  | .fillFail => p.fillFail
  | .inStep => p.inStep
  | .done => p.done
  | .watch => p.watch
  | .portError => p.portError

/-- A record with what it holds for one cause replaced. -/
def causeSet {α : Type} (p : PerCause α) (c : Cause) (v : α) : PerCause α :=
  match c with
  | .fault => { p with fault := v }
  | .notInStep => { p with notInStep := v }
  | .diverge => { p with diverge := v }
  | .fillFail => { p with fillFail := v }
  | .inStep => { p with inStep := v }
  | .done => { p with done := v }
  | .watch => { p with watch := v }
  | .portError => { p with portError := v }

/-- The latch set as a byte: bit k is the cause of code k (Table 10-16). -/
def latchByte (p : PerCause Bool) : Byte :=
  packByte fun k => causesByRank.any fun c => causeCode c == k && causeGet p c

/-- The ATTN pin is asserted exactly when a latched cause is unmasked (R153). -/
def pinFor (latches : PerCause Bool) (mask : Byte) : Bool :=
  causesByRank.any fun c => causeGet latches c && !mask.getLsbD (causeCode c)

/-- A cause latching with its detail; the earlier detail is lost and the pin is judged (R151, R153). -/
def latchCause (c : Cause) (detail : Byte) (s : State) : State :=
  { s with
    latches := causeSet s.latches c true
    details := causeSet s.details c detail
    attn := pinFor (causeSet s.latches c true) s.attnMask }

/-- One WATCH event per hit, in entry order (R7). -/
def latchHits (hits : List Byte) (s : State) : State :=
  hits.foldl (fun s i => latchCause .watch i s) s

/-- The NOT-IN-STEP detail takes the number of chunks that hold an UNKNOWN cell (R95, R152). -/
def giveUnknownCount (s : State) : State :=
  { s with details := causeSet s.details .notInStep (BitVec.ofNat 8 s.unknownChunks.length) }

/-- Does a condition cause's condition hold (R152)? Event causes have none. -/
def conditionHolds (station : StationState) : Cause → Bool
  | .fault => station == .faulted
  | .notInStep => station == .catchingUp
  | .diverge => false
  | .fillFail => false
  | .inStep => false
  | .done => false
  | .watch => false
  | .portError => false

/-- Is a cleared latch set again in the same event: LEVEL mode, condition still holding (R152)? -/
def relatches (s : State) (c : Cause) : Bool := s.attnMode == .level && conditionHolds s.station c

/-- The latched cause of the highest rank, masked or not (R154). -/
def highestLatched (s : State) : Option Cause := causesByRank.find? (causeGet s.latches)

/-- STATUS clearing one latch, with the LEVEL re-latch, and the pin judged after it (R152 to R154). -/
def clearLatch (c : Cause) (s : State) : State :=
  let latches := causeSet s.latches c (relatches s c)
  { s with latches := latches, attn := pinFor latches s.attnMask }

/-- ACK ALL clearing every latch, with the LEVEL re-latch (R156). -/
def clearAllLatches (s : State) : State :=
  let latches :=
    { PerCause.clear with
      fault := s.latches.fault && relatches s .fault
      notInStep := s.latches.notInStep && relatches s .notInStep }
  { s with latches := latches, attn := pinFor latches s.attnMask }

/-- The copies of the attention mode and mask that the Configuration Store gives (R143), with the pin
judged at once (R153). -/
def copyAttention (s : State) : State :=
  { s with
    attnMode := s.config.attnMode
    attnMask := s.config.attnMask
    attn := pinFor s.latches s.config.attnMask }

end Sys2Proof.Machine
end

