-- ==== Sys2Proof/Machine/Ops.lean ====
section
/-!
DEFINITION. Machine/Ops.lean: the operations that several commands share: the port's results, the
table port arbiter, the request and answer lists, the end of a committed group, status reports,
counted attempts, loss of step, the teardown, attaching, and the resets.
-/
namespace Sys2Proof.Machine

/-! ### One-byte results (Table 10-17) -/

/-- Result and refusal codes of Table 10-17. -/
inductive Code
  | ok
  | invalid
  | badValue
  | badEntry
  | full
  | empty
  | inUse
  | notOffline
  | notAttached
  | quiet
  | notKnown
  | withdrawn
  | tooLate
  | nothing
  | dropped
  deriving DecidableEq, Repr

/-- The byte of a result code (Table 10-17). -/
def codeByte : Code → Byte
  | .ok => 0x00
  | .invalid => 0x01
  | .badValue => 0x02
  | .badEntry => 0x03
  | .full => 0x04
  | .empty => 0x05
  | .inUse => 0x06
  | .notOffline => 0x07
  | .notAttached => 0x08
  | .quiet => 0x09
  | .notKnown => 0x0A
  | .withdrawn => 0x10
  | .tooLate => 0x11
  | .nothing => 0x12
  | .dropped => 0x13

/-! ### The port's results (R139, R140) -/

/-- The port with a result placed: its first 16 bytes in the FIFO, the rest in the snapshot; a 0-byte
result leaves the port in COMMAND (R140). -/
def portWithResult (bytes : List Byte) (p : Port) : Port :=
  if bytes = [] then .idle
  else
    { phase := .result
      fifo := bytes.take Config.fifoDepth
      command := p.command.map fun c => { c with wait := none }
      snapshot := bytes.drop Config.fifoDepth }

/-- The command in progress completes with these result bytes (R139). -/
def giveResult (bytes : List Byte) (s : State) : State := { s with port := portWithResult bytes s.port }

/-- The command in progress completes with a one-byte result. -/
def giveCode (c : Code) (s : State) : State := giveResult [codeByte c] s

/-- The command in progress stays in EXECUTION until its wait ends (R139, Table 8-2). -/
def waitFor (w : Wait) (s : State) : State :=
  { s with
    port := { s.port with
      phase := .execution
      command := s.port.command.map fun c => { c with wait := some w } } }

/-- Is the command in the port in EXECUTION waiting for `w` (Table 8-2)? -/
def portWaits (w : Wait) (s : State) : Bool :=
  s.port.phase == .execution && (s.port.command.bind CommandInProgress.wait) == some w

/-- A command waiting for `w`, if there is one, completes with a code; otherwise nothing changes. -/
def completeWait (w : Wait) (c : Code) (s : State) : State :=
  if portWaits w s then giveCode c s else s

/-- READY (Table 8-1). -/
def portReady (p : Port) : Bool :=
  match p.phase with
  | .command => true
  | .execution => false
  | .result => !p.fifo.isEmpty

/-- DIRECTION: true is to the processor (Table 8-1). -/
def portToProcessor (p : Port) : Bool := p.phase != .command

/-- Is the part in hardware reset: RESET# held low, or the part's own hold at power-on or after a supply
dip (R149, R161)? -/
def inReset (s : State) : Bool := s.resetAsserted || s.powerHold

/-- The status byte of a status read, which changes nothing (R137, Table 10-13); 0x00 throughout a
reset (R149). -/
def statusByte (s : State) : Byte :=
  if inReset s then 0
  else 0#1 ++ stationCode s.station ++ BitVec.ofBool s.attn ++ phaseCode s.port.phase
    ++ BitVec.ofBool (portToProcessor s.port) ++ BitVec.ofBool (portReady s.port)

/-- Port misuse: PORT-ERROR latches with the kind, and nothing else changes (R141). -/
def misusePort (m : Misuse) (s : State) : State := latchCause .portError (misuseCode m) s

/-! ### The table port arbiter (R13) -/

/-- The claim of the highest rank that waits: the Table Engine's own work (teardown, then a clear
whose count is 0, then the head item), the FDAT payload read, the port's access (R13, Table 1-4). -/
def nextGrant (s : State) : Option Grant :=
  if s.teardownPending then some .teardown
  else if s.pendingClear = some 0 then some .stepLossClear
  else if s.items ≠ [] then some .apply
  else
    match s.fdatClaim with
    | some c => some (.fdatRead c)
    | none => s.portClaim.map Grant.port

/-- Does a grant serve the second-rank claim? -/
def servesFdat : Grant → Bool
  | .fdatRead _ => true
  | .teardown => false
  | .stepLossClear => false
  | .apply => false
  | .port _ => false

/-- Does a grant serve the third-rank claim? -/
def servesPort : Grant → Bool
  | .port _ => true
  | .teardown => false
  | .stepLossClear => false
  | .apply => false
  | .fdatRead _ => false

/-- The arbiter: a free port is granted at once to the highest rank waiting; a running grant is not
interrupted (R13, log entry 1). -/
def settle (s : State) : State :=
  if s.running.isSome then s
  else
    match nextGrant s with
    | none => s
    | some g =>
      { s with
        running := some g
        runningDiscarded := false
        fdatClaim := if servesFdat g then none else s.fdatClaim
        portClaim := if servesPort g then none else s.portClaim }

/-- The answer of a meaning: the next state, once the arbiter has served it. -/
def answer (s : State) : Host.Outcome State Fault Refusal := .next (settle s)

/-- The port is free again at the end of a grant (R13). -/
def endGrant (s : State) : State := { s with running := none, runningDiscarded := false }

/-- An FDAT read claim still waiting is withdrawn, and a running one's records go nowhere (R14, R68). -/
def dropFdatRead (s : State) : State :=
  { s with
    fdatClaim := none
    fdatCopy := none
    runningDiscarded :=
      match s.running with
      | some (.fdatRead _) => true
      | _ => s.runningDiscarded }

/-! ### Request list (R102 to R108) -/

/-- The request list's entry for a chunk. -/
def findRequest (l : List Request) (c : Chunk) : Option Request := l.find? fun r => r.chunk == c

/-- Is a chunk's entry WANTED? -/
def isWanted (l : List Request) (c : Chunk) : Bool :=
  l.any fun r => r.chunk == c && r.state == .wanted

/-- The request candidate: the lowest-numbered WANTED chunk (R63, R102). -/
def wantedChunk (l : List Request) : Option Chunk := allChunks.find? (isWanted l)

/-- The request list replaced. The request slot's backoff timer stops when the entry it was started
for becomes ASKED or leaves the list (R72). -/
def setRequests (l : List Request) (s : State) : State :=
  { s with
    requests := l
    requestTimer := s.requestTimer.filter fun t => isWanted l t.chunk }

/-- A new WANTED entry: count 0, timer stopped (R103). -/
def newRequest (c : Chunk) : Request :=
  { chunk := c, state := .wanted, attempts := 0, fillTimer := none }

/-- The list with the named chunks added as WANTED; a chunk already in it is left as it is, and the
list stays ordered by chunk (R102, R103). -/
def withWanted (l : List Request) (chunks : List Chunk) : List Request :=
  allChunks.filterMap fun c =>
    match findRequest l c with
    | some r => some r
    | none => if chunks.contains c then some (newRequest c) else none

/-- Add chunks to the request list (R103). -/
def addWanted (chunks : List Chunk) (s : State) : State := setRequests (withWanted s.requests chunks) s

/-- The list without its entry for a chunk. -/
def withoutChunk (l : List Request) (c : Chunk) : List Request := l.filter fun r => r.chunk != c

/-- The list with a chunk's entry replaced. -/
def replaceRequest (l : List Request) (r : Request) : List Request :=
  l.map fun x => if x.chunk = r.chunk then r else x

/-- The list with a chunk's WANTED entry turned ASKED, its fill timer started and its count unchanged;
an ASKED entry keeps its timer (R105, R106). -/
def askChunk (l : List Request) (c : Chunk) (timeoutMs : Nat) : List Request :=
  l.map fun r =>
    if r.chunk = c ∧ r.state = .wanted then
      { r with state := .asked, fillTimer := some timeoutMs }
    else r

/-! ### Answer list and seed slot (R109 to R116) -/

/-- The answer list replaced. When the head changes, the new head's attempt count is 0 and the answer
slot's timer stops (R109, R111, R112). -/
def setAnswers (l : List Chunk) (s : State) : State :=
  if l.head? = s.answers.head? then { s with answers := l }
  else { s with answers := l, answerAttempts := 0, answerTimer := none }

/-- The seed slot emptied, its timer stopped, and a SEED command waiting in the port completed
(R63, R72, R115). -/
def emptySeedSlot (c : Code) (s : State) : State :=
  completeWait .seedSlot c { s with seedSlot := false, seedTimer := none }

/-! ### Committed group (R119 to R134) -/

/-- The chunks that hold an UNKNOWN named cell of some entry, in order (R124). -/
def neededChunks (t : Table) (entries : List Entry) : List Chunk :=
  allChunks.filter fun c =>
    entries.any fun e => (namedCells e).any fun i => chunkOfCell i == c && !(cellAt t i).known

/-- The committed group's state replaced (R126). -/
def setGroupState (st : GroupState) (s : State) : State :=
  { s with committed := s.committed.map fun g => { g with state := st } }

/-- The committed group ends at the Commit Unit: it leaves its slot, its timer stops, its needed
chunks are cleared, and the results list takes the status; the records stay (R129 to R134). -/
def dropCommitted (status : GroupStatus) (s : State) : State :=
  { s with
    committed := none
    groupTimer := none
    needed := []
    results := { s.results with status := status } }

/-- A committed group's end that latches DONE with the outcome (R131). -/
def endCommitted (status : GroupStatus) (s : State) : State :=
  latchCause .done (groupStatusCode status) (dropCommitted status s)

/-- The Table Engine's end-of-group report: the mark clears and DONE latches (R127). -/
def endApplied (status : GroupStatus) (s : State) : State :=
  latchCause .done (groupStatusCode status) { s with applyPending := false }

/-- A failed chunk: its entry is removed, FILL-FAIL latches, and a WAIT-FILL group that needs it ends
FILL-FAILED (R105, R107, R125). -/
def failChunk (c : Chunk) (s : State) : State :=
  let s := latchCause .fillFail (BitVec.ofNat 8 c.val) (setRequests (withoutChunk s.requests c) s)
  match s.committed with
  | some g => if g.state = .waitFill ∧ s.needed.contains c then endCommitted .fillFailed s else s
  | none => s

/-! ### Status reports (R4, R5, R97, R125) -/

/-- With auto-fill on and the station not quiet, the named chunks are wanted (R97, R118). -/
def autoWant (chunks : List Chunk) (s : State) : State :=
  if s.config.autoFill && !s.config.quiet then addWanted chunks s else s

/-- The Catch-up Unit on a report of cells becoming UNKNOWN (R97). -/
def catchUpLost (chunks : List Chunk) (s : State) : State :=
  match s.station with
  | .inStep =>
    autoWant chunks
      (setAnswers []
        (latchCause .notInStep (BitVec.ofNat 8 s.unknownChunks.length)
          { s with station := .catchingUp }))
  | .catchingUp => autoWant chunks s
  | .offline => s
  | .faulted => s

/-- The Catch-up Unit on a report of cells becoming KNOWN (R97). -/
def catchUpGained (s : State) : State :=
  match s.station with
  | .catchingUp =>
    let s := setRequests (s.requests.filter fun r => s.unknownChunks.contains r.chunk) s
    if s.unknownChunks = [] then latchCause .inStep 0 { s with station := .inStep } else s
  | .inStep => s
  | .offline => s
  | .faulted => s

/-- A WAIT-FILL group on a report of cells becoming UNKNOWN: the needed chunks are found again and
asked for again (R125). -/
def waitFillLost (s : State) : State :=
  match s.committed with
  | some g =>
    if g.state = .waitFill then
      let chunks := neededChunks s.table g.entries
      addWanted chunks { s with needed := chunks }
    else s
  | none => s

/-- A WAIT-FILL group on a report of cells becoming KNOWN: it enters QUEUED when no needed chunk
remains (R125). -/
def waitFillGained (s : State) : State :=
  match s.committed with
  | some g =>
    if g.state = .waitFill then
      let chunks := neededChunks s.table g.entries
      if chunks = [] then setGroupState .queued { s with needed := [] } else { s with needed := chunks }
    else s
  | none => s

/-- The end of a grant that may have changed statuses, `before` being the replica at its start: the
summary is brought up to date, and the one report it calls for, if any, is acted on by the Catch-up
Unit, the Attention Unit and the Commit Unit (R4, R5, R95, R97, R125). -/
def reportStatus (before : Table) (s : State) : State :=
  let s := { s with unknownChunks := unknownSummary s.table }
  let lost := lostChunks before s.table
  if lost ≠ [] then waitFillLost (giveUnknownCount (catchUpLost lost s))
  else if anyGained before s.table then waitFillGained (giveUnknownCount (catchUpGained s))
  else s

/-! ### Counted attempts (R72, R91) -/

/-- Backoff after the n-th counted attempt, in tb (R72). -/
def backoffTb (config : ConfigRecord) (n : Nat) : Nat := 64 * n + 4 * config.station.val

/-- Does an attempt count exhaust its candidate (R91)? -/
def exhausts (config : ConfigRecord) (n : Nat) : Bool := decide (n > config.retryLimit.val)

/-- A counted attempt of the seed slot (R91, R115). -/
def countSeed (s : State) : State :=
  let n := s.seedAttempts + 1
  let s := { s with seedAttempts := n }
  if exhausts s.config n then emptySeedSlot .dropped s
  else { s with seedTimer := some (backoffTb s.config n) }

/-- A counted attempt of the own FREQ for chunk c; with no entry for c nothing is counted (R105). -/
def countRequest (c : Chunk) (s : State) : State :=
  match findRequest s.requests c with
  | none => s
  | some r =>
    let n := r.attempts + 1
    if exhausts s.config n then failChunk c s
    else
      { s with
        requests := replaceRequest s.requests { r with attempts := n }
        requestTimer := some { chunk := c, tb := backoffTb s.config n } }

/-- A counted attempt of the committed group: the count goes into the results list, and the group
backs off or ends REJECTED (R91, R126, R129). -/
def countGroup (s : State) : State :=
  match s.committed with
  | none => s
  | some _ =>
    let n := s.groupAttempts + 1
    let s := { s with groupAttempts := n, results := { s.results with attempts := n } }
    if exhausts s.config n then endCommitted .rejected s
    else setGroupState .backoff { s with groupTimer := some (backoffTb s.config n) }

/-- A counted attempt of the own FDAT for chunk c: counted against c while it is the answer list's
head (R91, R111). -/
def countAnswer (c : Chunk) (s : State) : State :=
  if s.answers.head? = some c then
    let n := s.answerAttempts + 1
    let s := { s with answerAttempts := n }
    if exhausts s.config n then setAnswers s.answers.tail s
    else { s with answerTimer := some (backoffTb s.config n) }
  else s

/-- An attempt counted against the candidate of an own frame (R63, R91). -/
def countAttempt (body : TxBody) (s : State) : State :=
  match body with
  | .seed => countSeed s
  | .freq c => countRequest c s
  | .upd _ => countGroup s
  | .fdat c => countAnswer c s

/-! ### Loss of step (R92, R93, R112) -/

/-- A step loss reported: the clear is placed behind every item present, the open group is discarded,
and an IN-STEP station's answer list is emptied (R11, R83, R92, R112). -/
def loseStep (s : State) : State :=
  let s := { s with pendingClear := some s.items.length, groupBuffer := none }
  if s.station = .inStep then setAnswers [] s else s

/-! ### Line idle and hold limit (R51, R71, R83) -/

/-- Line idle reported: yield clears, and 12 tb of recessive end the watch for a broken take
(R71, R93). -/
def reportIdle (s : State) : State := { s with yield := false, takeAbandoned := false }

/-- The hold limit passes in GAP with no start mark taken: an open group is discarded (R83). -/
def passHoldLimit (s : State) : State := { s with framing := .gap true, groupBuffer := none }

/-! ### Leaving the line (R75, R99 to R101, R12, R134) -/

/-- An apply list's own group item, as the count of its entries (R12). -/
def ownEntryCount (items : List Item) : Option Nat :=
  items.findSome? fun item =>
    match item with
    | .group g => if g.own then some g.entries.length else none
    | .fdat _ _ => none
    | .seed => none

/-- The items of the apply list under a running apply grant (R12). -/
def itemsUnderGrant (s : State) : List Item :=
  if s.running = some .apply then s.items.take 1 else []

/-- The items of the apply list that a teardown discards (R12). -/
def itemsDiscarded (s : State) : List Item :=
  if s.running = some .apply then s.items.drop 1 else s.items

/-- The link's move to OFF: nothing is driven from the bit in progress, and the Line Access Unit's and
Delivery Unit's state takes its values of Tables 4-2 and 5-3; the mismatch count is kept (R75, R101,
R160). -/
def linkOff (s : State) : State :=
  dropFdatRead
    { s with
      link := .off
      txd := [.recessive]
      txFrame := none
      seedAttempts := 0
      groupAttempts := 0
      answerAttempts := 0
      seedTimer := none
      requestTimer := none
      groupTimer := none
      answerTimer := none
      yield := false
      framing := .off
      rxFrame := none
      windowDecision := none
      groupBuffer := none
      takeAbandoned := false }

/-- A committed group in any state ends DROPPED (R134). -/
def dropGroup (s : State) : State :=
  match s.committed with
  | some _ => endCommitted .dropped s
  | none => s

/-- The teardown in one event, on entering OFFLINE through DETACH or entering FAULTED (R12, R101,
Table 6-3). An item under a running apply grant stays until that grant ends. -/
def leaveLine (st : StationState) (s : State) : State :=
  let s := linkOff s
  let s :=
    { s with
      station := st
      requests := []
      answers := []
      items := itemsUnderGrant s
      discardedOwn := ownEntryCount (itemsDiscarded s)
      pendingClear := none
      teardownPending := true }
  dropGroup (emptySeedSlot .dropped s)

/-! ### Attaching (R98) -/

/-- START taken: the station attaches as CATCHING-UP and drives nothing (R98, R160, Tables 4-2, 5-3, 6-2). -/
def attach (s : State) : State :=
  giveCode .ok
    (latchCause .notInStep 16
      { s with
        station := .catchingUp
        link := .listen
        txd := [.recessive]
        framing := .search 0
        rxFrame := none
        windowDecision := none
        groupBuffer := none
        takeAbandoned := false
        seedAttempts := 0
        groupAttempts := 0
        answerAttempts := 0
        seedTimer := none
        requestTimer := none
        groupTimer := none
        answerTimer := none
        yield := false
        mismatch := 0
        requests :=
          if s.config.autoFill && !s.config.quiet then allChunks.map newRequest else []
        answers := []
        seedSlot := false })

/-! ### Resets (R148, R149) -/

/-- The soft reset: every block at its reset values; the record and the lock flag are kept when the
lock flag is 1, and the Attention Unit takes its copies either way (R143, R148). -/
def softReset (s : State) : State :=
  copyAttention
    { State.reset with
      pending := s.pending
      config := if s.lock then s.config else Config.defaultRecord
      lock := s.lock }

end Sys2Proof.Machine
end

