-- ==== Sys2Proof/Machine/Attention.lean ====
section
/-!
DEFINITION. Machine/Attention.lean: STATUS, PEEK STATUS and ACK ALL (chapter 9), as they are taken
from the port.
-/
namespace Sys2Proof.Machine

/-- STATUS: the highest-ranked latched cause and its detail, its latch cleared; NONE (0xFF) and 0 when
no latch is set (R154). -/
def takeStatus (s : State) : State :=
  match highestLatched s with
  | none => giveResult [0xFF, 0] s
  | some c => giveResult [BitVec.ofNat 8 (causeCode c), causeGet s.details c] (clearLatch c s)

/-- The six bytes of PEEK STATUS (R155, Table 10-16). -/
def peekStatusBytes (s : State) : List Byte :=
  [latchByte s.latches, s.attnMask, BitVec.ofNat 8 s.attn.toNat,
    (stationCode s.station).setWidth 8,
    groupStateCode (s.committed.map CommittedGroup.state), BitVec.ofNat 8 s.lastDivergence]

/-- PEEK STATUS (R155). -/
def takePeekStatus (s : State) : State := giveResult (peekStatusBytes s) s

/-- ACK ALL (R156). -/
def takeAckAll (s : State) : State := giveCode .ok (clearAllLatches s)

end Sys2Proof.Machine
end

