-- ==== Sys2Proof/Machine/CatchUp.lean ====
section
/-!
DEFINITION. Machine/CatchUp.lean: the Catch-up Unit's commands (chapter 6), START, DETACH, SEED and
REFILL, as they are taken from the port; and its part at the acceptance of a FREQ, an FDAT or a SEED.
-/
namespace Sys2Proof.Machine

/-- Is the station attached: CATCHING-UP or IN-STEP (Table 6-1)? -/
def isAttached (st : StationState) : Bool :=
  match st with
  | .catchingUp => true
  | .inStep => true
  | .offline => false
  | .faulted => false

/-- START: refused when attached; it waits for a teardown that has not ended (R98). -/
def takeStart (s : State) : State :=
  if isAttached s.station then giveCode .notOffline s
  else if s.teardownPending then waitFor .startTeardown s
  else attach s

/-- DETACH: refused in OFFLINE; in FAULTED the station moves to OFFLINE with no further teardown; the
result waits for the teardown grant (R99). -/
def takeDetach (s : State) : State :=
  match s.station with
  | .offline => giveCode .notAttached s
  | .faulted =>
    let s := { s with station := .offline }
    if s.teardownPending then waitFor .detachTeardown s else giveCode .ok s
  | .catchingUp => waitFor .detachTeardown (leaveLine .offline s)
  | .inStep => waitFor .detachTeardown (leaveLine .offline s)

/-- SEED: refused NOT-ATTACHED, QUIET, IN-USE in that order; else the slot fills, its attempt count is
0, and the command waits until the slot empties (R115). -/
def takeSeed (s : State) : State :=
  if !isAttached s.station then giveCode .notAttached s
  else if s.config.quiet then giveCode .quiet s
  else if s.seedSlot then giveCode .inUse s
  else waitFor .seedSlot { s with seedSlot := true, seedAttempts := 0 }

/-- REFILL: refused NOT-ATTACHED, then QUIET; else every chunk of the summary is wanted (R104). -/
def takeRefill (s : State) : State :=
  if !isAttached s.station then giveCode .notAttached s
  else if s.config.quiet then giveCode .quiet s
  else giveCode .ok (addWanted s.unknownChunks s)

/-- The answer list takes a requested chunk: at an IN-STEP station that is not quiet, at the end, if it
is absent (R110). One taken between a step-loss report and its clear is not eligible until the clear has
run, which empties the list (R112, R97, log entry 19). -/
def addAnswer (c : Chunk) (s : State) : State :=
  if s.station = .inStep ∧ !s.config.quiet ∧ !s.answers.contains c then
    setAnswers (s.answers ++ [c]) s
  else s

/-- The acceptance of a FREQ for chunk c, this station's or another's: a WANTED entry turns ASKED, and
the answer list takes the chunk (R105, R106, R110). -/
def acceptFreq (c : Chunk) (s : State) : State :=
  addAnswer c (setRequests (askChunk s.requests c s.config.fillTimeout.toNat) s)

/-- The acceptance of an FDAT for chunk c: the entry for c and the answer for c go (R108, R111). -/
def acceptFdat (c : Chunk) (s : State) : State :=
  setAnswers (s.answers.filter (· != c)) (setRequests (withoutChunk s.requests c) s)

/-- The acceptance of a SEED: the three structures are emptied, and a waiting SEED command returns OK
(R116). -/
def acceptSeed (s : State) : State := emptySeedSlot .ok (setAnswers [] (setRequests [] s))

end Sys2Proof.Machine
end

