-- ==== Sys2Proof/Machine/Commit.lean ====
section
/-!
DEFINITION. Machine/Commit.lean: the Commit Unit's commands (chapter 7), STAGE, UNSTAGE ALL, COMMIT,
WITHDRAW and RESULTS, as they are taken from the port.
-/
namespace Sys2Proof.Machine

/-- STAGE, judged in the order of R120. -/
def takeStage (e : Entry) (s : State) : State :=
  if s.station = .faulted then giveCode .notAttached s
  else if s.staging.length ≥ Config.groupCapacity then giveCode .full s
  else if !entryLegal s.staging.length e then giveCode .badEntry s
  else giveCode .ok { s with staging := s.staging ++ [e] }

/-- UNSTAGE ALL (R121). -/
def takeUnstageAll (s : State) : State := giveCode .ok { s with staging := [] }

/-- The first refusal of Table 7-2 that applies to a COMMIT, if any (R122). -/
def commitRefusal (strict : Byte) (s : State) : Option Code :=
  if strict ≠ 0 ∧ strict ≠ 1 then some .badValue
  else if !isAttached s.station then some .notAttached
  else if s.config.quiet then some .quiet
  else if s.staging = [] then some .empty
  else if s.committed.isSome ∨ s.applyPending then some .inUse
  else if !s.config.impliedFill ∧ !(s.staging.all (namedKnown s.table)) then some .notKnown
  else none

/-- An accepted COMMIT: the staging list becomes the committed group, QUEUED or, with a named cell
UNKNOWN under implied fill, WAIT-FILL with its needed chunks asked for (R123, R124). -/
def acceptCommit (strict : Byte) (s : State) : State :=
  let entries := s.staging
  let known := entries.all (namedKnown s.table)
  let wait := s.config.impliedFill && !known
  let chunks := if wait then neededChunks s.table entries else []
  let s :=
    { s with
      staging := []
      committed :=
        some { entries := entries, strict := strict == 1, state := if wait then .waitFill else .queued }
      results :=
        { status := .pending, attempts := 0
          records := List.replicate entries.length ResultRecord.notReached }
      groupAttempts := 0
      needed := chunks }
  giveCode .ok (if wait then addWanted chunks s else s)

/-- COMMIT (R122, R123). -/
def takeCommit (strict : Byte) (s : State) : State :=
  match commitRefusal strict s with
  | some code => giveCode code s
  | none => acceptCommit strict s

/-- WITHDRAW, by the committed group's state (R130, Table 7-4). DONE is not latched. -/
def takeWithdraw (s : State) : State :=
  match s.committed with
  | none => giveCode .nothing s
  | some g =>
    match g.state with
    | .waitFill => giveCode .withdrawn (dropCommitted .withdrawn s)
    | .queued => giveCode .withdrawn (dropCommitted .withdrawn s)
    | .backoff => giveCode .withdrawn (dropCommitted .withdrawn s)
    | .contending => giveCode .tooLate s
    | .sending => giveCode .tooLate s

/-- A result record's eight bytes (Table 10-7). -/
def recordBytes (r : ResultRecord) : List Byte :=
  [outcomeCode r.outcome, highByte r.oldValue, lowByte r.oldValue, highByte r.newValue,
    lowByte r.newValue, ownerByte r.oldOwner, ownerByte r.newOwner, r.newSeq]

/-- The bytes of RESULTS (R133, Table 10-9). -/
def resultsBytes (r : Results) : List Byte :=
  [groupStatusCode r.status, BitVec.ofNat 8 r.attempts, BitVec.ofNat 8 r.records.length]
    ++ r.records.flatMap recordBytes

/-- RESULTS: the whole list is copied when the command is taken (R133). -/
def takeResults (s : State) : State := giveResult (resultsBytes s.results) s

end Sys2Proof.Machine
end

