-- ==== Sys2Proof/Machine/Configuration.lean ====
section
/-!
DEFINITION. Machine/Configuration.lean: the Configuration Store's commands (chapter 8): IDENTIFY,
CONFIGURE, SHOW CONFIG, LOCK, and the soft reset, as their block takes them from the port.
-/
namespace Sys2Proof.Machine

/-- IDENTIFY (R147). -/
def takeIdentify (s : State) : State := giveResult [0x6C, 0x34, 0x01] s

/-- CONFIGURE: refused outside OFFLINE, then for a field out of range; else the whole record is
written and the attention copies given (R144). -/
def takeConfigure (p : ConfigBytes) (s : State) : State :=
  if s.station ≠ .offline then giveCode .notOffline s
  else if !configInRange p then giveCode .badValue s
  else giveCode .ok (copyAttention { s with config := configRecordOf p })

/-- The ten bytes of SHOW CONFIG (R145). -/
def showConfigBytes (s : State) : List Byte :=
  configByteList (configBytesFor s.config) ++ [BitVec.ofNat 8 s.lock.toNat]

/-- SHOW CONFIG (R145). -/
def takeShowConfig (s : State) : State := giveResult (showConfigBytes s) s

/-- LOCK (R146). -/
def takeLock (value : Byte) (s : State) : State :=
  if value = 0 then giveCode .ok { s with lock := false }
  else if value = 1 then giveCode .ok { s with lock := true }
  else giveCode .badValue s

/-- RESET: the soft reset at its code byte; no result bytes (R148). -/
def takeReset (s : State) : State := softReset s

end Sys2Proof.Machine
end

