-- ==== Sys2Proof/Machine/TableCommands.lean ====
section
/-!
DEFINITION. Machine/TableCommands.lean: READ, WATCH, TAKE CHANGES and PEEK CHANGES (section 1.7): what
the command does when it is taken from the port, and what its grant does.
-/
namespace Sys2Proof.Machine

/-- A table command raises its third-rank claim and waits for its grant (R13, R15). -/
def raiseClaim (op : TableOp) (s : State) : State :=
  waitFor .grant { s with portClaim := some (.command op) }

/-- READ: a count of 1..16 whose range stays within cell 255, else BAD-VALUE (R16). -/
def takeRead (first count : Byte) (s : State) : State :=
  if count.toNat = 0 ∨ count.toNat > 16 ∨ first.toNat + count.toNat - 1 > 255 then
    giveCode .badValue s
  else raiseClaim (.read first count) s

/-- The number of cells a WATCH names: 0 means 256 (R17). -/
def watchCount (count : Byte) : Nat := if count = 0 then 256 else count.toNat

/-- WATCH: its range stays within cell 255 and its setting is 0 or 1, else BAD-VALUE (R17). -/
def takeWatch (first count setting : Byte) (s : State) : State :=
  if first.toNat + watchCount count - 1 > 255 ∨ (setting ≠ 0 ∧ setting ≠ 1) then giveCode .badValue s
  else raiseClaim (.watch first count (setting == 1)) s

/-- TAKE CHANGES (R18). -/
def takeTakeChanges (s : State) : State := raiseClaim .take s

/-- PEEK CHANGES (R19). -/
def takePeekChanges (s : State) : State := raiseClaim .peek s

/-- The local status byte of a cell (Table 10-10). -/
def localStatusByte (c : Cell) : Byte :=
  0#5 ++ BitVec.ofBool c.changed ++ BitVec.ofBool c.watch ++ BitVec.ofBool c.known

/-- READ's six bytes for one cell (Table 10-10). -/
def readBytes (t : Table) (i : Byte) : List Byte :=
  let c := cellAt t i
  [i, localStatusByte c, highByte c.record.value, lowByte c.record.value, ownerByte c.record.owner,
    c.record.seq]

/-- READ's result: the cells first to first + count − 1 in index order (R16). -/
def readResult (t : Table) (first count : Byte) : List Byte :=
  (List.range count.toNat).flatMap fun k => readBytes t (first + BitVec.ofNat 8 k)

/-- The change bitmap: cell n is bit (n mod 8) of byte n div 8 (R18). -/
def changeBitmap (t : Table) : List Byte :=
  (List.range 32).map fun k =>
    packByte fun j => (cellAt t (BitVec.ofNat 8 (8 * k + j))).changed

/-- The replica after a table command's grant (R16 to R19). -/
def tableAfter (op : TableOp) (t : Table) : Table :=
  match op with
  | .read _ _ => t
  | .watch first count on => setWatch t first (watchCount count) on
  | .take => clearChanged t
  | .peek => t

/-- The result of a table command, copied in its grant (R15 to R19). -/
def tableResult (op : TableOp) (t : Table) : List Byte :=
  match op with
  | .read first count => readResult t first count
  | .watch _ _ _ => [codeByte .ok]
  | .take => changeBitmap t
  | .peek => changeBitmap t

end Sys2Proof.Machine
end

