-- ==== Sys2Proof/Machine/LocalPort.lean ====
section
/-!
DEFINITION. Machine/LocalPort.lean: the port's three accesses (chapter 8): a data write, a data read
and a write to the status address; the hand-over of a complete command to its owning block; and the
meanings of the rows that are commands of Table 10-18. Such a row is the processor writing the
command's code byte and then its parameter bytes to the data address (log entry 2).
-/
namespace Sys2Proof.Machine

/-! ### Codes and parameter counts (Table 10-18) -/

/-- The code byte of a command. -/
def opcodeByte : Opcode → Byte
  | .identify => 0x01
  | .configure => 0x02
  | .showConfig => 0x03
  | .lock => 0x04
  | .start => 0x05
  | .detach => 0x06
  | .reset => 0x07
  | .stage => 0x10
  | .unstageAll => 0x11
  | .commit => 0x12
  | .withdraw => 0x13
  | .results => 0x14
  | .read => 0x20
  | .watch => 0x21
  | .takeChanges => 0x22
  | .peekChanges => 0x23
  | .seed => 0x30
  | .refill => 0x31
  | .status => 0x40
  | .peekStatus => 0x41
  | .ackAll => 0x42

/-- The number of parameter bytes of a command. -/
def opcodeParams : Opcode → Nat
  | .identify => 0
  | .configure => 9
  | .showConfig => 0
  | .lock => 1
  | .start => 0
  | .detach => 0
  | .reset => 0
  | .stage => 14
  | .unstageAll => 0
  | .commit => 1
  | .withdraw => 0
  | .results => 0
  | .read => 2
  | .watch => 3
  | .takeChanges => 0
  | .peekChanges => 0
  | .seed => 0
  | .refill => 0
  | .status => 0
  | .peekStatus => 0
  | .ackAll => 0

/-- Every command of Table 10-18. -/
def allOpcodes : List Opcode :=
  [.identify, .configure, .showConfig, .lock, .start, .detach, .reset, .stage, .unstageAll, .commit,
    .withdraw, .results, .read, .watch, .takeChanges, .peekChanges, .seed, .refill, .status,
    .peekStatus, .ackAll]

/-- The command a code byte names, if the command summary lists it (R138). -/
def opcodeOfByte (b : Byte) : Option Opcode := allOpcodes.find? fun op => opcodeByte op == b

/-! ### Hand-over (R138, R139) -/

/-- A complete command handed to the block that owns it, which judges it by its own rules (R138). -/
def handOver (op : Opcode) (ps : List Byte) (s : State) : State :=
  match op with
  | .identify => takeIdentify s
  | .configure => takeConfigure (configBytesOf ps) s
  | .showConfig => takeShowConfig s
  | .lock => takeLock (byteAt ps 0) s
  | .start => takeStart s
  | .detach => takeDetach s
  | .reset => takeReset s
  | .stage => takeStage (entryOfBytes ps) s
  | .unstageAll => takeUnstageAll s
  | .commit => takeCommit (byteAt ps 0) s
  | .withdraw => takeWithdraw s
  | .results => takeResults s
  | .read => takeRead (byteAt ps 0) (byteAt ps 1) s
  | .watch => takeWatch (byteAt ps 0) (byteAt ps 1) (byteAt ps 2) s
  | .takeChanges => takeTakeChanges s
  | .peekChanges => takePeekChanges s
  | .seed => takeSeed s
  | .refill => takeRefill s
  | .status => takeStatus s
  | .peekStatus => takePeekStatus s
  | .ackAll => takeAckAll s

/-- The port with a command's parameters all taken: EXECUTION, the FIFO empty (R139, Table 8-7). -/
def executing (op : Opcode) : Port :=
  { phase := .execution, fifo := [], snapshot := []
    command :=
      some { op := op, needed := opcodeParams op, received := opcodeParams op, wait := none } }

/-- The port after the code byte and the parameter bytes `ps` of a command: still in COMMAND if more
are needed, else the command is handed over (R138). -/
def takeParameters (op : Opcode) (ps : List Byte) (s : State) : State :=
  if ps.length < opcodeParams op then
    { s with
      port :=
        { phase := .command, fifo := ps, snapshot := []
          command :=
            some { op := op, needed := opcodeParams op, received := ps.length, wait := none } } }
  else handOver op ps { s with port := executing op }

/-! ### The three accesses -/

/-- A write to the data address (R138, R141); ignored while the part is held in reset (R149). -/
def writeData (b : Byte) (s : State) : State :=
  if inReset s then s
  else
    match s.port.phase with
    | .command =>
      match s.port.command with
      | none =>
        match opcodeOfByte b with
        | none => giveCode .invalid s
        | some op => takeParameters op [] s
      | some c => takeParameters c.op (s.port.fifo ++ [b]) s
    | .execution => misusePort .writeNotReady s
    | .result => misusePort .writeInResult s

/-- A data write, with the arbiter served after it. -/
def acceptByte (s : State) (b : Byte) : State := settle (writeData b s)

/-- A misused read returns 0 and consumes nothing (R141). -/
def misuseRead (m : Misuse) (s : State) : State := misusePort m { s with dataOut := some 0 }

/-- A read of the data address (R140, R141); 0 while the part is held in reset (R149). -/
def readData (s : State) : State :=
  if inReset s then { s with dataOut := some 0 }
  else
    match s.port.phase with
    | .command => misuseRead .readInCommand s
    | .execution => misuseRead .readNotReady s
    | .result =>
      match s.port.fifo with
      | [] => misuseRead .readNotReady s
      | b :: rest =>
        let s := { s with dataOut := some b }
        if rest ≠ [] then { s with port := { s.port with fifo := rest } }
        else if s.port.snapshot = [] then { s with port := .idle }
        else { s with port := { s.port with fifo := [] }, portClaim := some .refill }

/-- Is the running grant one of the Local Port's? -/
def portRunning (s : State) : Bool :=
  match s.running with
  | some g => servesPort g
  | none => false

/-- A port flush: COMMAND with nothing in progress; a waiting claim is withdrawn and a running grant of
the port runs to its end with its result discarded (R142, R15, Table 8-5). -/
def flushPort (s : State) : State :=
  { s with
    port := .idle
    portClaim := none
    runningDiscarded := s.runningDiscarded || portRunning s }

/-! ### Meanings: the commands of Table 10-18 -/

/-- The processor writes a command's code byte and its parameter bytes, one data write each (R138). -/
def issue (op : Opcode) (ps : List Byte) (s : State) : State :=
  (opcodeByte op :: ps).foldl acceptByte s

/-- IDENTIFY (R147). -/
def execIdentify (s : State) : Host.Outcome State Fault Refusal := .next (issue .identify [] s)

/-- CONFIGURE (R144). -/
def execConfigure (p : ConfigBytes) (s : State) : Host.Outcome State Fault Refusal :=
  .next (issue .configure (configByteList p) s)

/-- SHOW CONFIG (R145). -/
def execShowConfig (s : State) : Host.Outcome State Fault Refusal := .next (issue .showConfig [] s)

/-- LOCK (R146). -/
def execLock (value : Byte) (s : State) : Host.Outcome State Fault Refusal :=
  .next (issue .lock [value] s)

/-- START (R98). -/
def execStart (s : State) : Host.Outcome State Fault Refusal := .next (issue .start [] s)

/-- DETACH (R99). -/
def execDetach (s : State) : Host.Outcome State Fault Refusal := .next (issue .detach [] s)

/-- RESET (R148). -/
def execReset (s : State) : Host.Outcome State Fault Refusal := .next (issue .reset [] s)

/-- STAGE (R120). -/
def execStage (e : Entry) (s : State) : Host.Outcome State Fault Refusal :=
  .next (issue .stage (entryBytes e) s)

/-- UNSTAGE ALL (R121). -/
def execUnstageAll (s : State) : Host.Outcome State Fault Refusal := .next (issue .unstageAll [] s)

/-- COMMIT (R122, R123). -/
def execCommit (strict : Byte) (s : State) : Host.Outcome State Fault Refusal :=
  .next (issue .commit [strict] s)

/-- WITHDRAW (R130). -/
def execWithdraw (s : State) : Host.Outcome State Fault Refusal := .next (issue .withdraw [] s)

/-- RESULTS (R133). -/
def execResults (s : State) : Host.Outcome State Fault Refusal := .next (issue .results [] s)

/-- READ (R16). -/
def execRead (first count : Byte) (s : State) : Host.Outcome State Fault Refusal :=
  .next (issue .read [first, count] s)

/-- WATCH (R17). -/
def execWatch (first count setting : Byte) (s : State) : Host.Outcome State Fault Refusal :=
  .next (issue .watch [first, count, setting] s)

/-- TAKE CHANGES (R18). -/
def execTakeChanges (s : State) : Host.Outcome State Fault Refusal := .next (issue .takeChanges [] s)

/-- PEEK CHANGES (R19). -/
def execPeekChanges (s : State) : Host.Outcome State Fault Refusal := .next (issue .peekChanges [] s)

/-- SEED (R115). -/
def execSeed (s : State) : Host.Outcome State Fault Refusal := .next (issue .seed [] s)

/-- REFILL (R104). -/
def execRefill (s : State) : Host.Outcome State Fault Refusal := .next (issue .refill [] s)

/-- STATUS (R154). -/
def execStatus (s : State) : Host.Outcome State Fault Refusal := .next (issue .status [] s)

/-- PEEK STATUS (R155). -/
def execPeekStatus (s : State) : Host.Outcome State Fault Refusal := .next (issue .peekStatus [] s)

/-- ACK ALL (R156). -/
def execAckAll (s : State) : Host.Outcome State Fault Refusal := .next (issue .ackAll [] s)

/-! ### Meanings: port accesses and resets -/

/-- DATA_WRITE (R138, R141). -/
def execDataWrite (b : Byte) (s : State) : Host.Outcome State Fault Refusal := answer (writeData b s)

/-- RESULT_READ: a read of the data address (R140). -/
def execResultRead (s : State) : Host.Outcome State Fault Refusal := answer (readData s)

/-- MISUSED_READ: a read of the data address, which the port judges by its phase (R141). -/
def execMisusedRead (s : State) : Host.Outcome State Fault Refusal := answer (readData s)

/-- PORT_FLUSH: a write to the status address, whatever the value; no effect while the part is held in
reset (R142, R149). -/
def execPortFlush (_value : Byte) (s : State) : Host.Outcome State Fault Refusal :=
  if inReset s then .next s else answer (flushPort s)

/-- Is a reset source taken as a hardware reset? RESET# shorter than 1 µs is ignored (R161). -/
def resetTaken : ResetSource → Bool
  | .pin widthNs => decide (widthNs ≥ Config.resetFilterNs)
  | .supplyDip => true
  | .powerOn => true

/-- Every block at its hardware reset values, the part held in reset by RESET#, by its own hold, by both
or by neither (R149, R161). -/
def resetValues (asserted hold : Bool) (s : State) : State :=
  { State.reset with pending := s.pending, resetAsserted := asserted, powerHold := hold }

/-- A hardware reset begins: RESET# low joins whatever hold stands, and so does a power hold (R161). -/
def beginReset (source : ResetSource) (s : State) : State :=
  match source with
  | .pin _ => resetValues true s.powerHold s
  | .supplyDip => resetValues s.resetAsserted true s
  | .powerOn => resetValues s.resetAsserted true s

/-- HARDWARE_RESET: every block is held at its hardware reset values and the port takes no access
(R149, R161). -/
def execHardwareReset (source : ResetSource) (s : State) : Host.Outcome State Fault Refusal :=
  if resetTaken source then .next (beginReset source s) else .next s

/-- RESET_RELEASE, the release of RESET#: every block holds its hardware reset values, and the port is in
COMMAND unless the part still holds itself (R149, R161). The release of an assertion that was ignored
changes nothing. -/
def execResetRelease (s : State) : Host.Outcome State Fault Refusal :=
  if s.resetAsserted then .next (resetValues false s.powerHold s) else .next s

/-- RESET_RELEASE, the end of the part's own hold: likewise, unless RESET# is still low, which extends the
reset until its own release (R161). -/
def execPowerHoldEnd (s : State) : Host.Outcome State Fault Refusal :=
  if s.powerHold then .next (resetValues s.resetAsserted false s) else .next s

end Sys2Proof.Machine
end

