-- ==== Sys2Proof/Machine/Grants.lean ====
section
/-!
DEFINITION. Machine/Grants.lean: the grants of the table port (section 1.6). Each row is the end of
the grant that is running, with all the grant's effects (log entry 1): the apply grants, the
step-loss clear, the teardown, the FDAT payload read, a table command's grant and a refill.
-/
namespace Sys2Proof.Machine

/-! ### Apply grants (R10, R34, R113, R117) -/

/-- The head item removed at the end of its apply grant, which lowers a pending clear's count
(R8, R10, R11). While a frame is being taken the removal is counted for its BUSY test (R79). -/
def removeHead (s : State) : State :=
  { s with
    items := s.items.tail
    appliedSinceMark := if s.framing = .taking then s.appliedSinceMark + 1 else s.appliedSinceMark
    pendingClear := s.pendingClear.map (· - 1) }

/-- The results list written by the Table Engine for an own group item (R40). -/
def writeResults (status : GroupStatus) (records : List ResultRecord) (s : State) : State :=
  { s with results := { s.results with status := status, records := records } }

/-- The apply grant of a group item (R34, R39): the replica, the watch hits, an own group's results,
the head removed, the status report, and last an own group's end (R10). -/
def applyGroup (g : GroupItem) (s : State) : State :=
  let r := evaluateGroup g s.table
  let s1 := latchHits r.hits { s with table := r.table }
  let s2 := if g.own then writeResults r.status r.records s1 else s1
  let s3 := reportStatus s.table (endGrant (removeHead s2))
  if g.own then endApplied r.status s3 else s3

/-- The apply grant of an FDAT item (R113, R114): the chunk adopted, divergences counted against the
replica before it, the head removed, the status report. -/
def applyFdat (c : Chunk) (d : ChunkData) (s : State) : State :=
  let n := divergences s.table c d
  let s1 := { s with table := adoptChunk s.table c d }
  let s2 :=
    if n > 0 then latchCause .diverge (BitVec.ofNat 8 c.val) { s1 with lastDivergence := n } else s1
  reportStatus s.table (endGrant (removeHead s2))

/-- The apply grant of a SEED item (R117). -/
def applySeed (s : State) : State :=
  reportStatus s.table (endGrant (removeHead { s with table := seedAll s.table }))

/-- GROUP_APPLY: the end of the apply grant of a group item at the head (R34). -/
def execGroupApply (s : State) : Host.Outcome State Fault Refusal :=
  match s.running, s.items with
  | some .apply, .group g :: _ => answer (applyGroup g s)
  | _, _ => .fault .grantNotRunning

/-- FDAT_APPLY: the end of the apply grant of an FDAT item at the head (R113). -/
def execFdatApply (s : State) : Host.Outcome State Fault Refusal :=
  match s.running, s.items with
  | some .apply, .fdat c d :: _ => answer (applyFdat c d s)
  | _, _ => .fault .grantNotRunning

/-- SEED_APPLY: the end of the apply grant of a SEED item at the head (R117). -/
def execSeedApply (s : State) : Host.Outcome State Fault Refusal :=
  match s.running, s.items with
  | some .apply, .seed :: _ => answer (applySeed s)
  | _, _ => .fault .grantNotRunning

/-! ### Step-loss clear and teardown (R11, R12) -/

/-- The clear has run: a count of 0 is no longer pending, and a clear moved behind items while this one
ran stays (R11, log entry 9). -/
def clearDone (s : State) : State :=
  { s with pendingClear := if s.pendingClear = some 0 then none else s.pendingClear }

/-- The step-loss clear's grant (R11). -/
def runClear (s : State) : State :=
  reportStatus s.table (endGrant (clearDone { s with table := clearAll s.table }))

/-- STEP_LOSS_CLEAR (R11). -/
def execStepLossClear (s : State) : Host.Outcome State Fault Refusal :=
  if s.running = some .stepLossClear then answer (runClear s) else .fault .grantNotRunning

/-- The DROPPED results of a discarded own group, one NOT-REACHED record per entry, and the end of the
group (R12). -/
def finishDiscarded (s : State) : State :=
  match s.discardedOwn with
  | some n =>
    endApplied .dropped
      (writeResults .dropped (List.replicate n ResultRecord.notReached) { s with discardedOwn := none })
  | none => s

/-- A START that waited for the teardown acts now (R98). -/
def startAfterTeardown (s : State) : State := if portWaits .startTeardown s then attach s else s

/-- The teardown grant (R12): every KNOWN cell UNKNOWN, one report, a discarded own group's results and
end, and the waiting DETACH or START completed (R98, R99). -/
def runTeardown (s : State) : State :=
  let s1 := endGrant { s with table := clearAll s.table, teardownPending := false }
  let s2 := finishDiscarded (reportStatus s.table s1)
  startAfterTeardown (completeWait .detachTeardown .ok s2)

/-- TEARDOWN_GRANT (R12). -/
def execTeardownGrant (s : State) : Host.Outcome State Fault Refusal :=
  if s.running = some .teardown then answer (runTeardown s) else .fault .grantNotRunning

/-! ### FDAT payload read (R14) -/

/-- The records of the chunk as they stand at the grant go into the frame's payload, unless the frame
was lost or stopped (R14, R68). -/
def runFdatRead (c : Chunk) (s : State) : State :=
  if s.runningDiscarded then endGrant s else endGrant { s with fdatCopy := some (chunkData s.table c) }

/-- FDAT_PAYLOAD_READ (R14). -/
def execFdatPayloadRead (s : State) : Host.Outcome State Fault Refusal :=
  match s.running with
  | some (.fdatRead c) => answer (runFdatRead c s)
  | _ => .fault .grantNotRunning

/-! ### The Local Port's grants (R15, R140) -/

/-- A table command's grant: its work on the replica, and its result to the port unless a flush has
discarded it (R15). -/
def runTableCommand (op : TableOp) (s : State) : State :=
  let s1 := endGrant { s with table := tableAfter op s.table }
  if s.runningDiscarded then s1 else giveResult (tableResult op s.table) s1

/-- TABLE_COMMAND_GRANT (R15). -/
def execTableCommandGrant (s : State) : Host.Outcome State Fault Refusal :=
  match s.running with
  | some (.port (.command op)) => answer (runTableCommand op s)
  | _ => .fault .grantNotRunning

/-- A refill: the next 16 bytes of the snapshot, or the rest, move into the FIFO, unless a flush has
discarded them (R140, R15). -/
def runRefill (s : State) : State :=
  let s1 := endGrant s
  if s.runningDiscarded then s1
  else
    { s1 with
      port :=
        { s.port with
          fifo := s.port.snapshot.take Config.fifoDepth
          snapshot := s.port.snapshot.drop Config.fifoDepth } }

/-- RESULT_REFILL (R140). -/
def execResultRefill (s : State) : Host.Outcome State Fault Refusal :=
  match s.running with
  | some (.port .refill) => answer (runRefill s)
  | _ => .fault .grantNotRunning

end Sys2Proof.Machine
end

