-- ==== Sys2Proof/Machine/Frames.lean ====
section
/-!
DEFINITION. Machine/Frames.lean: chapter 3: the bytes and bits of a frame, its check, and the judgement
of a frame that was read to its window.
-/
namespace Sys2Proof.Machine

/-! ### The check (R50) -/

/-- One message bit into the check register: shift towards the most significant end, and combine with
0x1021 when the bit shifted out differs from the message bit (R50). -/
def crcBit (r : Value) (bit : Bool) : Value :=
  if r.getLsbD 15 == bit then r <<< 1 else (r <<< 1) ^^^ 0x1021

/-- One byte into the check register, most significant bit first (R50). -/
def crcByte (r : Value) (b : Byte) : Value :=
  [7, 6, 5, 4, 3, 2, 1, 0].foldl (fun r k => crcBit r (b.getLsbD k)) r

/-- The check register after a run of bytes, from 0xFFFF (R50). -/
def crc (bytes : List Byte) : Value := bytes.foldl crcByte 0xFFFF

/-- The check over the key byte, H1, H2 and the payload (R50). -/
def frameCheck (key : BitVec 7) (h1 h2 : Byte) (payload : List Byte) : Value :=
  crc (keyByte key :: h1 :: h2 :: payload)

/-! ### Building a frame (R46 to R49) -/

/-- A cell record's four bytes (Table 10-5). -/
def cellRecordBytes (r : CellRecord) : List Byte :=
  [highByte r.value, lowByte r.value, ownerByte r.owner, r.seq]

/-- The kind of a frame's contents. -/
def bodyKind : FrameBody → FrameKind
  | .seed => .seed
  | .freq _ => .freq
  | .fdat _ _ => .fdat
  | .upd _ => .upd

/-- The payload bytes of a frame (R49). -/
def bodyBytes : FrameBody → List Byte
  | .seed => []
  | .freq c => [BitVec.ofNat 8 c.val]
  | .fdat c d => BitVec.ofNat 8 c.val :: d.records.flatMap cellRecordBytes
  | .upd e => entryBytes e

/-- A frame as its sender builds it, with H2 the kind's length and the check over what is sent
(R46, R67). -/
def rawFrame (f : Frame) : RawFrame :=
  let kind := bodyKind f.body
  let key := frameKey kind f.sender
  let h1 := headerByte kind f.inStep f.last f.strict f.index
  let h2 := BitVec.ofNat 8 (payloadLength kind)
  let payload := bodyBytes f.body
  let check := frameCheck key h1 h2 payload
  { key := key, h1 := h1, h2 := h2, payload := payload, checkHigh := highByte check,
    checkLow := lowByte check }

/-- The line level of a bit: a 0 is dominant (R44). -/
def bitLevel (b : Bool) : Level := if b then .recessive else .dominant

/-- A byte on the line: lead dominant, eight data bits least significant first, tail recessive (R47). -/
def byteLevels (b : Byte) : List Level :=
  .dominant :: ([0, 1, 2, 3, 4, 5, 6, 7].map fun k => bitLevel (b.getLsbD k)) ++ [.recessive]

/-- The key on the line, most significant bit first (R47). -/
def keyLevels (key : BitVec 7) : List Level :=
  [6, 5, 4, 3, 2, 1, 0].map fun k => bitLevel (key.getLsbD k)

/-- What a sender drives from the start mark to the second check byte (R46, Table 3-2): the start mark,
seven key bits, and ten bits for each byte. -/
def frameLevels (f : RawFrame) : List Level :=
  .dominant :: keyLevels f.key
    ++ (f.h1 :: f.h2 :: f.payload ++ [f.checkHigh, f.checkLow]).flatMap byteLevels

/-! ### Judging a frame (R54 to R59) -/

/-- Cell record k of an FDAT payload, whose first byte is the chunk (Table 10-5). -/
def payloadRecord (payload : List Byte) (k : Nat) : CellRecord :=
  { value := valueAt payload (4 * k + 1), owner := ownerOfByte (byteAt payload (4 * k + 3)),
    seq := byteAt payload (4 * k + 4) }

/-- The sixteen records of an FDAT payload (R49). -/
def payloadData (payload : List Byte) : ChunkData :=
  { records := (List.range 16).map (payloadRecord payload), size := by simp }

/-- Do all sixteen owner bytes of an FDAT payload name owners (R57)? -/
def payloadOwnersFit (payload : List Byte) : Bool :=
  (List.range 16).all fun k => isOwnerByte (byteAt payload (4 * k + 3))

/-- The contents that a payload spells for its kind, if its own bytes have no format error (R57): the
chunk 0..15, the owner bytes, the legality of the entry at its group index. -/
def payloadBody (kind : FrameKind) (index : BitVec 3) (payload : List Byte) : Option FrameBody :=
  match kind with
  | .seed => some .seed
  | .freq => (chunkOfByte (byteAt payload 0)).map FrameBody.freq
  | .fdat =>
    if payloadOwnersFit payload then
      (chunkOfByte (byteAt payload 0)).map fun c => .fdat c (payloadData payload)
    else none
  | .upd =>
    let e := entryOfBytes payload
    if entryLegal index.toNat e then some (.upd e) else none

/-- Do the key and header have no format error of R57: the class is the kind's, H2 the kind's length,
a single-frame kind has last 1, strict 0 and index 0, a UPD of index 7 has last 1, and an FDAT's sender
was IN-STEP? -/
def headerFits (f : RawFrame) : Bool :=
  let kind := kindOfH1 f.h1
  keyClass f.key == kindClass kind
    && f.h2 == BitVec.ofNat 8 (payloadLength kind)
    && (kind == .upd || (h1Last f.h1 && !h1Strict f.h1 && h1Index f.h1 == 0))
    && !(kind == .upd && h1Index f.h1 == 7 && !h1Last f.h1)
    && !(kind == .fdat && !h1InStep f.h1)

/-- Does a frame meet the expectation of this station's open group (R58)? -/
def expectationMet (openGroup : Option OpenGroup) (f : RawFrame) : Bool :=
  match openGroup with
  | none => h1Index f.h1 == 0
  | some g =>
    kindOfH1 f.h1 == .upd && (h1Index f.h1).toNat == g.entries.length && f.key == g.key
      && h1Strict f.h1 == g.strict

/-- Is the check read equal to the check computed over the bytes read (R59)? -/
def checkMatches (f : RawFrame) : Bool :=
  frameCheck f.key f.h1 f.h2 f.payload == joinBytes f.checkHigh f.checkLow

/-- The verdict of a receiver on a frame read to its window: SOUND with its contents when no format
error and no check error is found, else FAULTY (R54 to R59). -/
def judgeFrame (openGroup : Option OpenGroup) (f : RawFrame) : Verdict :=
  match payloadBody (kindOfH1 f.h1) (h1Index f.h1) f.payload with
  | none => .faulty
  | some body =>
    if headerFits f && expectationMet openGroup f && checkMatches f then
      .sound
        { sender := keyStation f.key, inStep := h1InStep f.h1, last := h1Last f.h1,
          strict := h1Strict f.h1, index := h1Index f.h1, body := body }
    else .faulty

/-- Does a SOUND frame complete an item: a UPD with last flag 1, an FDAT or a SEED (R79)? -/
def completesItem (f : Frame) : Bool :=
  match f.body with
  | .seed => true
  | .freq _ => false
  | .fdat _ _ => true
  | .upd _ => f.last

end Sys2Proof.Machine
end

