-- ==== Sys2Proof/Machine/Line.lean ====
section
/-!
DEFINITION. Machine/Line.lean: Line Access (chapter 4) and the receiver's framing (section 3.5): the
candidates, starting and contending, the hold, transmit mismatch, and the line's intervals. A row whose
event the tables do not list for the state stops by name (log entry 3).
-/
namespace Sys2Proof.Machine

/-! ### Candidates (R63 to R67) -/

/-- Is the committed group presented and QUEUED (Table 4-5)? -/
def groupQueued (s : State) : Bool := (s.committed.map CommittedGroup.state) == some .queued

/-- Is a slot's candidate present and eligible at a start point (R64, Table 4-5)? A quiet station has
none. From a step-loss report to the end of its clear no answer is eligible: "No FDAT is started from such
a table" (R112), so that every cell an FDAT's read copies is KNOWN (R14, log entry 19). -/
def eligible (s : State) (slot : CandidateSlot) : Bool :=
  !s.config.quiet &&
  match slot with
  | .seed => s.seedSlot && s.seedTimer.isNone
  | .request => (wantedChunk s.requests).isSome && s.requestTimer.isNone
  | .group => groupQueued s && s.groupTimer.isNone && !s.yield
  | .answer =>
    !s.answers.isEmpty && s.answerTimer.isNone && !s.yield && s.items.isEmpty && s.pendingClear.isNone

/-- The first eligible candidate in the order seed slot, request, group, answer (R65). -/
def firstEligible (s : State) : Option CandidateSlot :=
  [CandidateSlot.seed, .request, .group, .answer].find? (eligible s)

/-- A frame that completes an item or asks for a chunk alone: index 0, last 1, strict 0 (R48, R67). -/
def singleFrame (s : State) (body : TxBody) : TxFrame :=
  { station := s.config.station, inStep := s.station == .inStep, last := true, strict := false,
    index := 0, body := body }

/-- The group's frame of entry k: last on the final entry, the strict flag given at COMMIT (R67). -/
def groupFrame (s : State) (g : CommittedGroup) (k : Nat) : Option TxFrame :=
  (g.entries[k]?).map fun e =>
    { station := s.config.station, inStep := s.station == .inStep
      last := k + 1 == g.entries.length, strict := g.strict, index := BitVec.ofNat 3 k
      body := .upd e }

/-- The frame of a slot's candidate, fixed at the start mark (R65, R67). -/
def slotFrame (s : State) (slot : CandidateSlot) : Option TxFrame :=
  match slot with
  | .seed => some (singleFrame s .seed)
  | .request => (wantedChunk s.requests).map fun c => singleFrame s (.freq c)
  | .group => s.committed.bind fun g => groupFrame s g 0
  | .answer => s.answers.head?.map fun c => singleFrame s (.fdat c)

/-- The kind of an own frame. -/
def txKind : TxBody → FrameKind
  | .seed => .seed
  | .freq _ => .freq
  | .upd _ => .upd
  | .fdat _ => .fdat

/-- The key of an own frame (R65). -/
def txKey (f : TxFrame) : BitVec 7 := frameKey (txKind f.body) f.station

/-- The own frame's contents, an FDAT's with the records copied by its grant (R67, R68). -/
def txContents (f : TxFrame) (copy : Option ChunkData) : Option Frame :=
  let contents := fun body =>
    { sender := f.station, inStep := f.inStep, last := f.last, strict := f.strict, index := f.index,
      body := body }
  match f.body with
  | .seed => some (contents .seed)
  | .freq c => some (contents (.freq c))
  | .upd e => some (contents (.upd e))
  | .fdat c => copy.map fun d => contents (.fdat c d)

/-! ### What this station drives (R44, R46, R47, R78, R160) -/

/-- H1 and H2 of an own frame (R48, R67). -/
def txHeader (f : TxFrame) : List Byte :=
  [headerByte (txKind f.body) f.inStep f.last f.strict f.index,
    BitVec.ofNat 8 (payloadLength (txKind f.body))]

/-- What an own frame puts on TXD from its start mark on; of an FDAT whose records are not copied yet, the
bits before its payload (R46, R67, R68). -/
def txLevels (f : TxFrame) (copy : Option ChunkData) : List Level :=
  match txContents f copy with
  | some contents => frameLevels (rawFrame contents)
  | none => .dominant :: keyLevels (txKey f) ++ (txHeader f).flatMap byteLevels

/-- The bits of an own frame up to the last step of the line: its start mark and, once its key is won, the
key (R65, R66, R70). -/
def bitsBehind (link : Link) (f : TxFrame) : Nat :=
  if link = .sending ∧ f.index = 0 then 8 else 1

/-- What an own frame puts on TXD after the last step of the line, to its last check byte. -/
def restLevels (f : TxFrame) (s : State) : List Level :=
  (txLevels f s.fdatCopy).drop (bitsBehind s.link f)

/-- What an own frame puts on TXD after the last step of the line, to its bit n; the start mark, bit 0,
is that step's own bit. -/
def levelsTo (n : Nat) (f : TxFrame) (s : State) : List Level :=
  ((txLevels f s.fdatCopy).take (n + 1)).drop (min n (bitsBehind s.link f))

/-- The level of a slot on TXD (R78, R160). -/
def slotLevel (driven : Bool) : Level := if driven then .dominant else .recessive

/-- What a station drives from the turnaround to the VETO slot: its slot for one bit, and nothing else
(R46, R78). -/
def windowLevels (slot : SlotChoice) : List Level :=
  [.recessive, slotLevel (slot == .accept), slotLevel (slot == .veto)]

/-- Nothing driven over the bits that a line step closes (R160). -/
def undriven (s : State) : State := { s with txd := [.recessive] }

/-- These levels driven since the last step of the line, and nothing from the bit after them (R60, R66,
R73, R160). -/
def stopDriving (levels : List Level) (s : State) : State := { s with txd := levels ++ [.recessive] }

/-! ### The start of contention (R65) -/

/-- The own start mark driven at a bit: the Delivery Unit takes it as it takes any other (R52, R60). -/
def driveStartMark (link : Link) (f : TxFrame) (s : State) : State :=
  { s with
    link := link
    txd := [.dominant]
    appliedSinceMark := 0
    txFrame := some f
    framing := .taking
    rxFrame := some { own := true, verdict := none }
    windowDecision := none }

/-- What a start mark does for its own slot: the group is CONTENDING (R77); an FDAT's read claim is
raised (R14, R68). -/
def startSlot (f : TxFrame) (s : State) : State :=
  match f.body with
  | .seed => s
  | .freq _ => s
  | .upd _ => setGroupState .contending s
  | .fdat c => { s with fdatClaim := some c, fdatCopy := none }

/-- The start of contention with a candidate's frame (R65). -/
def beginContention (f : TxFrame) (s : State) : State := startSlot f (driveStartMark .contending f s)

/-- CONTENTION_START: at a start point the first eligible candidate's start mark is driven; with no
eligible candidate nothing is driven (R65). -/
def execContentionStart (s : State) : Host.Outcome State Fault Refusal :=
  if s.link ≠ .listen then .fault .linkState
  else if s.framing ≠ .rest then .fault .framingState
  else
    match (firstEligible s).bind (slotFrame s) with
    | none => answer (undriven s)
    | some f => answer (beginContention f s)

/-! ### Winning and losing the key (R66) -/

/-- A group frame's contention lost: the group returns to QUEUED; no attempt is counted (R66). -/
def loseSlot (body : TxBody) (s : State) : State :=
  match body with
  | .seed => s
  | .freq _ => s
  | .upd _ => setGroupState .queued s
  | .fdat _ => s

/-- The key lost at a bit: the key driven to that bit, the link RECEIVING, the frame judged as any
receiver's, an FDAT's claim withdrawn or its copy discarded (R66, R68, R160). -/
def loseKey (keyBit : Fin 7) (f : TxFrame) (s : State) : State :=
  loseSlot f.body
    (dropFdatRead
      (stopDriving (levelsTo (keyBit.val + 1) f s)
        { s with
          link := .receiving
          txFrame := none
          rxFrame := some { own := false, verdict := none } }))

/-- CONTENTION_LOST: a recessive key bit read dominant; a dominant one cannot lose the key (R66). -/
def execContentionLost (s : State) (keyBit : Fin 7 := 0) : Host.Outcome State Fault Refusal :=
  match s.link, s.txFrame with
  | .contending, some f =>
    if (keyLevels (txKey f))[keyBit.val]? = some .recessive then answer (loseKey keyBit f s)
    else .fault .keyCannotLose
  | _, _ => .fault .linkState

/-- The key won: SENDING, and so is the group; TXD has carried the seven key bits (R47, R66, R77). -/
def winKey (f : TxFrame) (s : State) : State :=
  let s := { s with link := .sending, txd := keyLevels (txKey f) }
  match f.body with
  | .seed => s
  | .freq _ => s
  | .upd _ => setGroupState .sending s
  | .fdat _ => s

/-- KEY_WON (R66). -/
def execKeyWon (s : State) : Host.Outcome State Fault Refusal :=
  match s.link, s.txFrame with
  | .contending, some f => answer (winKey f s)
  | _, _ => .fault .linkState

/-! ### Taking frames (R52 to R56) -/

/-- A start mark of another station taken (R52, R62); in SEARCH it comes after 12 tb of recessive, at
which line idle was reported (log entry 5). -/
def takeFrame (s : State) : State :=
  let s :=
    match s.framing with
    | .search _ => reportIdle s
    | .off => s
    | .rest => s
    | .taking => s
    | .gap _ => s
  { s with
    link := .receiving
    txd := [.recessive]
    appliedSinceMark := 0
    framing := .taking
    rxFrame := some { own := false, verdict := none }
    windowDecision := none }

/-- May a start mark be taken in a framing state (Table 3-7)? -/
def takesStartMark : Framing → Bool
  | .search _ => true
  | .rest => true
  | .gap late => !late
  | .off => false
  | .taking => false

/-- FRAME_TAKEN (R52). -/
def execFrameTaken (s : State) : Host.Outcome State Fault Refusal :=
  if s.link ≠ .listen then .fault .linkState
  else if !takesStartMark s.framing then .fault .framingState
  else answer (takeFrame s)

/-- A dominant bit in SEARCH within 12 tb of abandoning a frame is a broken take: a step loss is
reported at that bit (R93). -/
def breakTake (s : State) : State :=
  if s.takeAbandoned then loseStep { s with takeAbandoned := false } else s

/-- START_MARK_NOT_TAKEN (R52): in GAP after the hold limit, or in SEARCH after less than 12 tb of
recessive; SEARCH follows with its count restarted (log entry 8). -/
def execStartMarkNotTaken (s : State) : Host.Outcome State Fault Refusal :=
  if s.link ≠ .listen then .fault .linkState
  else
    match s.framing with
    | .gap _ => answer (undriven { passHoldLimit s with framing := .search 0 })
    | .search n =>
      if n ≥ Config.lineIdleTb then .fault .framingState
      else answer (undriven { breakTake s with framing := .search 0 })
    | .off => .fault .framingState
    | .rest => .fault .framingState
    | .taking => .fault .framingState

/-- BROKEN_TAKE: a dominant bit within 12 tb of the bit at which this station abandoned a frame; its
framing state stays SEARCH (R93). -/
def execBrokenTake (s : State) : Host.Outcome State Fault Refusal :=
  match s.framing with
  | .search _ =>
    if s.takeAbandoned then answer (undriven { breakTake s with framing := .search 0 })
    else .fault .noBrokenTake
  | .off => .fault .framingState
  | .rest => .fault .framingState
  | .taking => .fault .framingState
  | .gap _ => .fault .framingState

/-- A frame abandoned: SEARCH with its count from that bit, the receive record and window decision
emptied, nothing driven from that bit, and a broken take possible for 12 tb (R56, R60, R81, R93, R160). -/
def abandonFrame (s : State) : State :=
  { s with
    link := .listen
    txd := [.recessive]
    txFrame := none
    framing := .search 0
    rxFrame := none
    windowDecision := none
    takeAbandoned := true }

/-- TRUNCATION of the frame being taken from another station; an open group is discarded (R56, R83). -/
def execTruncation (s : State) : Host.Outcome State Fault Refusal :=
  if s.link ≠ .receiving then .fault .linkState
  else if s.framing ≠ .taking then .fault .framingState
  else answer { abandonFrame s with groupBuffer := none }

/-! ### Transmit mismatch (R73, R74, R100) -/

/-- Does an own frame complete an item (R79)? -/
def txCompletes (f : TxFrame) : Bool :=
  match f.body with
  | .seed => true
  | .freq _ => false
  | .upd _ => f.last
  | .fdat _ => true

/-- Is the apply list full as it stands (R8, R92)? -/
def listFull (s : State) : Bool := decide (s.items.length ≥ Config.applyCapacity)

/-- Was the apply list full in the turnaround of the frame being taken, `appliedSince` apply grants having
ended since then? It can shrink after the turnaround and cannot grow (R79). No more can have ended than
the items that left the list since the start mark (log entry 7). -/
def busyTurnaround (appliedSince : Nat) (s : State) : Bool :=
  decide (s.items.length + min appliedSince s.appliedSinceMark ≥ Config.applyCapacity)

/-- The level that this station drives at bit n of its own frame, if that bit is one of this link state:
the start mark and the key in CONTENDING, every later bit in SENDING, and every bit of a held frame
(Table 4-1, R70). -/
def drivenLevel (n : Nat) (f : TxFrame) (s : State) : Option Level :=
  if (s.link = .contending ∧ n ≤ 7) ∨ (s.link = .sending ∧ (f.index ≠ 0 ∨ 8 ≤ n)) then
    (txLevels f s.fdatCopy)[n]?
  else none

/-- May the mismatch fall where the row says? In the start mark and key of contention a dominant bit reads
recessive, in SENDING any bit differs, and past the turnaround a BUSY sender drives its VETO slot (R46, R73,
R78, R79). -/
def mismatchFits (bit : MismatchBit) (f : TxFrame) (s : State) : Bool :=
  match bit with
  | .frame n =>
    match drivenLevel n f s with
    | some level => s.link == .sending || level == .dominant
    | none => false
  | .vetoSlot appliedSince =>
    s.link == .sending && (txContents f s.fdatCopy).isSome && txCompletes f
      && busyTurnaround appliedSince s

/-- What TXD has carried at a mismatch since the last step of the line, to the bit of the mismatch
(R73, R160). -/
def mismatchLevels (bit : MismatchBit) (f : TxFrame) (s : State) : List Level :=
  match bit with
  | .frame n => levelsTo n f s
  | .vetoSlot _ => restLevels f s ++ windowLevels .veto

/-- The mismatch count before a mismatch is counted: a frame that reached its turnaround had returned it
to 0 (R74). -/
def mismatchBefore (bit : MismatchBit) (s : State) : Nat :=
  match bit with
  | .frame _ => s.mismatch
  | .vetoSlot _ => 0

/-- The station enters FAULTED at the fourth mismatch in a row: the teardown, and FAULT latched with
the count; no attempt is counted (R74, R100). -/
def enterFaulted (s : State) : State :=
  latchCause .fault (BitVec.ofNat 8 Config.faultMismatches)
    (leaveLine .faulted { s with mismatch := Config.faultMismatches })

/-- A transmit mismatch: the frame stops at the bit after it and is abandoned, the count rises, and an
attempt is counted unless the count reaches 4 (R73, R74). -/
def stopFrame (bit : MismatchBit) (f : TxFrame) (s : State) : State :=
  let n := mismatchBefore bit s + 1
  stopDriving (mismatchLevels bit f s)
    (if n ≥ Config.faultMismatches then enterFaulted s
    else countAttempt f.body (dropFdatRead (abandonFrame { s with mismatch := n })))

/-- TRANSMIT_MISMATCH (R73). -/
def execTransmitMismatch (bit : MismatchBit) (s : State) : Host.Outcome State Fault Refusal :=
  match s.txFrame with
  | none => .fault .linkState
  | some f => if mismatchFits bit f s then answer (stopFrame bit f s) else .fault .linkState

/-! ### The hold (R70) -/

/-- The group frame that follows the accepted one (R67, R70). -/
def nextGroupFrame (s : State) : Option TxFrame :=
  s.txFrame.bind fun f => s.committed.bind fun g => groupFrame s g (f.index.toNat + 1)

/-- HOLD_GAP: the holder drives the next group frame's start mark without contention (R70). -/
def execHoldGap (s : State) : Host.Outcome State Fault Refusal :=
  if s.link ≠ .holding then .fault .linkState
  else if s.framing ≠ .gap false then .fault .framingState
  else
    match nextGroupFrame s with
    | none => .fault .linkState
    | some f => answer (driveStartMark .sending f s)

/-- HOLD_INTRUSION: a dominant bit in HOLDING before the gap is over ends the hold, is taken as a start
mark, and counts an attempt against the group (R70). -/
def execHoldIntrusion (s : State) : Host.Outcome State Fault Refusal :=
  if s.link ≠ .holding then .fault .linkState
  else if s.framing ≠ .gap false then .fault .framingState
  else answer (countGroup (takeFrame { s with txFrame := none }))

/-! ### The line's intervals (R51, R52, R71, R83) -/

/-- HOLD_LIMIT_EXPIRED: no start mark by the hold limit; an open group is discarded (R83). -/
def execHoldLimitExpired (s : State) : Host.Outcome State Fault Refusal :=
  if s.link ≠ .listen then .fault .linkState
  else
    match s.framing with
    | .gap _ => answer (undriven (passHoldLimit s))
    | .off => .fault .framingState
    | .search _ => .fault .framingState
    | .rest => .fault .framingState
    | .taking => .fault .framingState

/-- REST_REACHED: the rest interval passes after a taken frame, or 23 tb of recessive in SEARCH. Each
passes after the shorter interval of its state, whose effect it includes (log entry 5). -/
def execRestReached (s : State) : Host.Outcome State Fault Refusal :=
  if s.link ≠ .listen then .fault .linkState
  else
    match s.framing with
    | .gap _ => answer (undriven { passHoldLimit s with framing := .rest })
    | .search _ => answer (undriven { reportIdle s with framing := .rest })
    | .off => .fault .framingState
    | .rest => .fault .framingState
    | .taking => .fault .framingState

/-- LINE_IDLE: 12 tb of recessive after a VETO slot, or in SEARCH; yield clears (R52, R71). In GAP the
hold limit and the rest interval have passed before it (log entry 5). -/
def execLineIdle (s : State) : Host.Outcome State Fault Refusal :=
  if s.link ≠ .listen then .fault .linkState
  else
    match s.framing with
    | .rest => answer (undriven (reportIdle s))
    | .search n =>
      answer (undriven { reportIdle s with framing := .search (max n Config.lineIdleTb) })
    | .gap _ => answer (undriven { reportIdle (passHoldLimit s) with framing := .rest })
    | .off => .fault .framingState
    | .taking => .fault .framingState

end Sys2Proof.Machine
end

