-- ==== Sys2Proof/Machine/Timers.lean ====
section
/-!
DEFINITION. Machine/Timers.lean: the ends of the backoff timers (R72) and of the fill timers (R107).
-/
namespace Sys2Proof.Machine

/-- Is a slot's backoff timer running (R72)? -/
def backoffRuns (s : State) : CandidateSlot → Bool
  | .seed => s.seedTimer.isSome
  | .request => s.requestTimer.isSome
  | .group => s.groupTimer.isSome
  | .answer => s.answerTimer.isSome

/-- A slot's backoff timer expires: its candidate is eligible again, and a group returns to QUEUED
(R72, R77). -/
def expireBackoff (slot : CandidateSlot) (s : State) : State :=
  match slot with
  | .seed => { s with seedTimer := none }
  | .request => { s with requestTimer := none }
  | .group => setGroupState .queued { s with groupTimer := none }
  | .answer => { s with answerTimer := none }

/-- BACKOFF_EXPIRY (R72). -/
def execBackoffExpiry (slot : CandidateSlot) (s : State) : Host.Outcome State Fault Refusal :=
  if backoffRuns s slot then answer (expireBackoff slot s) else .fault .timerStopped

/-- A fill timer expires: the entry's count rises, and it returns to WANTED with its timer stopped, or
fails (R107). -/
def expireFill (r : Request) (s : State) : State :=
  let n := r.attempts + 1
  if exhausts s.config n then failChunk r.chunk s
  else
    setRequests
      (replaceRequest s.requests { r with state := .wanted, attempts := n, fillTimer := none }) s

/-- FILL_TIMER_EXPIRY of the ASKED entry for a chunk (R107). -/
def execFillTimerExpiry (c : Chunk) (s : State) : Host.Outcome State Fault Refusal :=
  match findRequest s.requests c with
  | none => .fault .timerStopped
  | some r =>
    if r.state = .asked ∧ r.fillTimer.isSome then answer (expireFill r s) else .fault .timerStopped

end Sys2Proof.Machine
end

