-- ==== Sys2Proof/Machine/Window.lean ====
section
/-!
DEFINITION. Machine/Window.lean: the acknowledge window (chapter 5): the slot decision, the window
outcome, and what acceptance, rejection and an unheard window do at a receiver and at the sender.
WINDOW_OUTCOME carries the two slots as this station reads them from RXD (R80, R160, log entry 6).
-/
namespace Sys2Proof.Machine

/-! ### Deciding and reading the window (R78 to R80) -/

/-- A receiver's slot, decided in the turnaround (R79, Table 5-1). -/
def receiverSlot (appliedSince : Nat) (s : State) (v : Verdict) : SlotChoice :=
  if s.config.quiet then .neither
  else
    match v with
    | .faulty => .veto
    | .sound f => if completesItem f && busyTurnaround appliedSince s then .veto else .accept

/-- The sender's slot, decided in the turnaround: VETO when its own frame is BUSY at its own station
(R79, Table 5-1). -/
def senderSlot (appliedSince : Nat) (s : State) (f : Frame) : SlotChoice :=
  if !s.config.quiet && completesItem f && busyTurnaround appliedSince s then .veto else .neither

/-- The window outcome, from the two slots as read (R80). -/
def windowReads (slots : SlotsRead) : WindowOutcome :=
  if slots.veto then .rejected else if slots.accept then .accepted else .unheard

/-- Does RXD show the slot this station drove? A station that drove VETO reads rejected, one that drove
ACCEPT reads rejected or accepted (R80); a sender that does not read its VETO has a transmit mismatch and
no window (R73). -/
def slotReadBack (slots : SlotsRead) (own : SlotChoice) : Bool :=
  match own with
  | .veto => slots.veto
  | .accept => slots.veto || slots.accept
  | .neither => true

/-! ### The receive side (R82 to R86, R92) -/

/-- An item joins the apply list at the end of the VETO slot (R8, R84). -/
def appendItem (item : Item) (s : State) : State := { s with items := s.items ++ [item] }

/-- An accepted UPD at a receiver: held in the group buffer, or the group's item built and appended
(R82, R84). -/
def acceptUpd (f : Frame) (e : Entry) (s : State) : State :=
  let held := match s.groupBuffer with
    | some g => g.entries
    | none => []
  if f.last then
    appendItem (.group { sender := f.sender, strict := f.strict, entries := held ++ [e], own := false })
      { s with groupBuffer := none }
  else
    { s with
      groupBuffer :=
        some { key := frameKey .upd f.sender, strict := f.strict, entries := held ++ [e] } }

/-- What the acceptance of a SOUND frame does at a receiver: the item appended, and a FREQ, FDAT or
SEED reported to the Catch-up Unit (R82, R84, R85). -/
def acceptFrame (f : Frame) (s : State) : State :=
  match f.body with
  | .upd e => acceptUpd f e s
  | .freq c => acceptFreq c s
  | .fdat c d => acceptFdat c (appendItem (.fdat c d) s)
  | .seed => acceptSeed (appendItem .seed s)

/-- An accepted window at a receiver: a FAULTY frame, or a completing frame with no room, is a loss of
step at the quiet station that could not veto it (R92). -/
def receiveAccepted (v : Verdict) (s : State) : State :=
  match v with
  | .faulty => loseStep s
  | .sound f => if completesItem f && listFull s then loseStep s else acceptFrame f s

/-- An unheard window at a quiet receiver (R86, Table 5-4). -/
def receiveUnheard (v : Verdict) (s : State) : State :=
  match v with
  | .faulty => loseStep s
  | .sound f =>
    if completesItem f then loseStep s
    else
      match f.body with
      | .upd e => acceptUpd f e s
      | .freq _ => s
      | .fdat _ _ => s
      | .seed => s

/-- A receiver's window (R80): its slot driven, and its part in the outcome; rejection discards its open
group (R83). -/
def receiveWindow (v : Verdict) (slot : SlotChoice) (outcome : WindowOutcome) (s : State) : State :=
  let s1 :=
    { s with
      link := .listen
      txd := windowLevels slot
      framing := .gap false
      rxFrame := some { own := false, verdict := some v }
      windowDecision := some slot }
  match outcome with
  | .rejected => { s1 with groupBuffer := none }
  | .accepted => receiveAccepted v s1
  | .unheard => receiveUnheard v s1

/-! ### The sender's side (R69, R71, R87 to R89) -/

/-- Does the end of an own frame's VETO slot set yield: an FDAT or a UPD with last flag 1 (R71)? -/
def setsYield (f : Frame) : Bool :=
  match f.body with
  | .seed => false
  | .freq _ => false
  | .fdat _ _ => true
  | .upd _ => f.last

/-- The own group's last frame accepted: the group item with the own mark is appended, and the group
leaves the Commit Unit (R88, R127). -/
def ownGroupAccepted (f : Frame) (s : State) : State :=
  match s.committed with
  | some g =>
    appendItem (.group { sender := f.sender, strict := g.strict, entries := g.entries, own := true })
      { s with committed := none, groupTimer := none, applyPending := true }
  | none => s

/-- An own frame that counts as accepted (R69, R88): a group frame that is not last begins or goes on
with the hold. -/
def ownAccepted (f : Frame) (s : State) : State :=
  match f.body with
  | .upd _ => if f.last then ownGroupAccepted f { s with txFrame := none } else { s with link := .holding }
  | .freq c => acceptFreq c { s with txFrame := none }
  | .fdat c d => acceptFdat c (appendItem (.fdat c d) { s with txFrame := none })
  | .seed => acceptSeed (appendItem .seed { s with txFrame := none })

/-- Does an own frame count as accepted (Table 5-5, R89)? -/
def countsAccepted (solo : Bool) : WindowOutcome → Bool
  | .accepted => true
  | .unheard => solo
  | .rejected => false

/-- The sender's window (R69, R87): the frame reached its turnaround without mismatch, so the mismatch
count returns to 0 (R74); a frame not accepted counts an attempt. -/
def senderWindow (tx : TxFrame) (f : Frame) (slot : SlotChoice) (outcome : WindowOutcome) (s : State) :
    State :=
  let s1 :=
    { s with
      link := .listen
      txd := restLevels tx s ++ windowLevels slot
      fdatCopy := none
      framing := .gap false
      rxFrame := some { own := true, verdict := some (.sound f) }
      windowDecision := some slot
      mismatch := 0
      yield := s.yield || setsYield f
      groupBuffer := if outcome = .rejected then none else s.groupBuffer }
  if countsAccepted s.config.solo outcome then ownAccepted f s1
  else countAttempt tx.body { s1 with txFrame := none }

/-- WINDOW_OUTCOME: the end of the VETO slot of the frame being taken, with the two slots as read and the
apply grants that have ended since the turnaround. For an own frame the bytes read are not judged (R60);
for another's they are judged here, in the step that holds the slot decision (log entry 7). -/
def execWindowOutcome (frame : RawFrame) (slots : SlotsRead) (appliedSince : Nat) (s : State) :
    Host.Outcome State Fault Refusal :=
  if s.framing ≠ .taking then .fault .framingState
  else
    match s.link, s.txFrame with
    | .receiving, _ =>
      if frame.payload.length ≠ payloadLength (kindOfH1 frame.h1) then .fault .frameLength
      else
        let v := judgeFrame s.groupBuffer frame
        let slot := receiverSlot appliedSince s v
        if slotReadBack slots slot then
          answer (receiveWindow v slot (windowReads slots) s)
        else .fault .slotNotRead
    | .sending, some tx =>
      match txContents tx s.fdatCopy with
      | none => .fault .payloadNotRead
      | some f =>
        let slot := senderSlot appliedSince s f
        if slotReadBack slots slot then
          answer (senderWindow tx f slot (windowReads slots) s)
        else .fault .slotNotRead
    | _, _ => .fault .linkState

end Sys2Proof.Machine
end

