-- ==== Sys2Proof/Machine/Dispatch.lean ====
section
/-!
DEFINITION. Machine/Dispatch.lean: exec, one arm for each constructor of Instr, in the order of
spec/opcode_table.json.
-/
namespace Sys2Proof.Machine

def exec (i : Instr) (s : State) : Host.Outcome State Fault Refusal :=
  match i with
  | .identify => Sys2Proof.Machine.execIdentify s
  | .configure bytes => Sys2Proof.Machine.execConfigure bytes s
  | .showConfig => Sys2Proof.Machine.execShowConfig s
  | .lock value => Sys2Proof.Machine.execLock value s
  | .start => Sys2Proof.Machine.execStart s
  | .detach => Sys2Proof.Machine.execDetach s
  | .reset => Sys2Proof.Machine.execReset s
  | .stage entry => Sys2Proof.Machine.execStage entry s
  | .unstageAll => Sys2Proof.Machine.execUnstageAll s
  | .commit strict => Sys2Proof.Machine.execCommit strict s
  | .withdraw => Sys2Proof.Machine.execWithdraw s
  | .results => Sys2Proof.Machine.execResults s
  | .read first count => Sys2Proof.Machine.execRead first count s
  | .watch first count setting => Sys2Proof.Machine.execWatch first count setting s
  | .takeChanges => Sys2Proof.Machine.execTakeChanges s
  | .peekChanges => Sys2Proof.Machine.execPeekChanges s
  | .tableCommandGrant => Sys2Proof.Machine.execTableCommandGrant s
  | .seed => Sys2Proof.Machine.execSeed s
  | .refill => Sys2Proof.Machine.execRefill s
  | .status => Sys2Proof.Machine.execStatus s
  | .peekStatus => Sys2Proof.Machine.execPeekStatus s
  | .ackAll => Sys2Proof.Machine.execAckAll s
  | .dataWrite byte => Sys2Proof.Machine.execDataWrite byte s
  | .resultRead => Sys2Proof.Machine.execResultRead s
  | .resultRefill => Sys2Proof.Machine.execResultRefill s
  | .portFlush value => Sys2Proof.Machine.execPortFlush value s
  | .hardwareReset source => Sys2Proof.Machine.execHardwareReset source s
  | .resetRelease => Sys2Proof.Machine.execResetRelease s
  | .powerHoldEnd => Sys2Proof.Machine.execPowerHoldEnd s
  | .groupApply => Sys2Proof.Machine.execGroupApply s
  | .fdatApply => Sys2Proof.Machine.execFdatApply s
  | .seedApply => Sys2Proof.Machine.execSeedApply s
  | .stepLossClear => Sys2Proof.Machine.execStepLossClear s
  | .teardownGrant => Sys2Proof.Machine.execTeardownGrant s
  | .fdatPayloadRead => Sys2Proof.Machine.execFdatPayloadRead s
  | .contentionStart => Sys2Proof.Machine.execContentionStart s
  | .contentionLost keyBit => Sys2Proof.Machine.execContentionLost s keyBit
  | .frameTaken => Sys2Proof.Machine.execFrameTaken s
  | .truncation => Sys2Proof.Machine.execTruncation s
  | .transmitMismatch bit => Sys2Proof.Machine.execTransmitMismatch bit s
  | .windowOutcome frame slots appliedSince => Sys2Proof.Machine.execWindowOutcome frame slots appliedSince s
  | .holdGap => Sys2Proof.Machine.execHoldGap s
  | .holdIntrusion => Sys2Proof.Machine.execHoldIntrusion s
  | .holdLimitExpired => Sys2Proof.Machine.execHoldLimitExpired s
  | .restReached => Sys2Proof.Machine.execRestReached s
  | .lineIdle => Sys2Proof.Machine.execLineIdle s
  | .brokenTake => Sys2Proof.Machine.execBrokenTake s
  | .backoffExpiry slot => Sys2Proof.Machine.execBackoffExpiry slot s
  | .fillTimerExpiry chunk => Sys2Proof.Machine.execFillTimerExpiry chunk s
  | .keyWon => Sys2Proof.Machine.execKeyWon s
  | .startMarkNotTaken => Sys2Proof.Machine.execStartMarkNotTaken s
  | .misusedRead => Sys2Proof.Machine.execMisusedRead s

end Sys2Proof.Machine
end

