-- ==== Sys2Proof/Safety.lean ====
section
/-!
DEFINITION. Safety.lean: the words the statements are written in: a part that can take a command, the
port with a result or a waiting command, and the invariants that every step keeps.
-/
namespace Sys2Proof.Machine

/-! ### A part that can take a command, and the port after one -/

/-- The table port is not free while a claim of Table 1-4 waits: no teardown, no clear with a count of 0,
no item, no FDAT payload read, no access of the port (R13). -/
def ArbiterSettled (s : State) : Prop :=
  s.running = none →
    s.teardownPending = false ∧ s.pendingClear ≠ some 0 ∧ s.items = [] ∧ s.fdatClaim = none
      ∧ s.portClaim = none

/-- These bytes written to the data address one after the other, from s to t. -/
def DataWrites : List Byte → State → State → Prop
  | [], s, t => s = t
  | b :: rest, s, t => ∃ u, exec (.dataWrite b) s = .next u ∧ DataWrites rest u t

/-- A part out of reset whose port is in COMMAND with nothing in progress: it can take a command. -/
def Ready (s : State) : Prop :=
  inReset s = false ∧ s.port = Port.idle ∧ ArbiterSettled s

/-- A grant given to a free port: it runs, and its result is wanted (R13, R15). -/
def granted (g : Grant) (s : State) : State := { s with running := some g, runningDiscarded := false }

/-- The port with the result of a command placed (R139, R140). -/
def resultPort (op : Opcode) (bytes : List Byte) : Port :=
  { phase := .result
    fifo := bytes.take 16
    command :=
      some { op := op, needed := opcodeParams op, received := opcodeParams op, wait := none }
    snapshot := bytes.drop 16 }

/-- The port with a one-byte result. -/
def codePort (op : Opcode) (code : Code) : Port := resultPort op [codeByte code]

/-- The port with a command that waits in EXECUTION (R139, Table 8-2). -/
def waitingPort (op : Opcode) (w : Wait) : Port :=
  { phase := .execution, fifo := [], snapshot := []
    command :=
      some { op := op, needed := opcodeParams op, received := opcodeParams op, wait := some w } }

/-- A state in which a cause has just latched: the latch set, the detail replaced, the pin judged
(R151, R153). -/
def withCause (c : Cause) (detail : Byte) (s : State) : State :=
  { s with
    latches := causeSet s.latches c true
    details := causeSet s.details c detail
    attn := pinFor (causeSet s.latches c true) s.attnMask }

/-- The apply list after the head's removal, a pending clear's count lowered, the removal counted for the
frame being taken, the port free (R10, R11, R79). -/
def withoutHead (s : State) : State :=
  { s with
    items := s.items.tail
    appliedSinceMark := if s.framing = .taking then s.appliedSinceMark + 1 else s.appliedSinceMark
    pendingClear := s.pendingClear.map (· - 1)
    running := none
    runningDiscarded := false }

/-- Does an entry name cell i: its target, or its source cell when the operand source is CELL (R22)? -/
def Names (e : Entry) (i : Byte) : Prop :=
  i = e.cell ∨ (e.source = .cell ∧ i = e.operand.extractLsb' 0 8)

/-- An illegal entry at a position of its group: the four defects of R21. -/
def Illegal (k : Nat) (e : Entry) : Prop :=
  e.ownerAction = .illegal ∨ (e.chain = true ∧ k = 0) ∨ (e.chain = true ∧ e.plain = true)
    ∨ (e.source = .cell ∧ e.operand.extractLsb' 8 8 ≠ 0)

/-- The run of a strict group on its working copy, which is ts k before entry k: each reached entry's
outcome decided on the copy, the first n entries PASSED and written to it, and, when n is not their number,
entry n not PASSED and the last one reached (R31, R36 to R38). -/
def StrictRun (g : GroupItem) (t : Table) (n : Nat) (ts : Nat → Table) (os : Nat → EntryOutcome) : Prop :=
  ts 0 = t ∧ n ≤ g.entries.length
    ∧ (∀ k e, k ≤ n → g.entries[k]? = some e →
        os k = decideOutcome (ts k) g.sender (if k = 0 then none else some (os (k - 1))) e)
    ∧ (∀ k e, k < n → g.entries[k]? = some e →
        os k = .passed ∧ ts (k + 1) = entryEffect (ts k) g.sender e .passed)
    ∧ (n < g.entries.length → os n ≠ .passed)

/-- The records of that run (Table 2-5, R41): a PASSED entry's from the copy before and after it; the
entry that stops the group has the copy's value and owner, old and new alike, and the copy's seq; every
later entry is NOT-REACHED. -/
def StrictRecords (g : GroupItem) (n : Nat) (ts : Nat → Table) (os : Nat → EntryOutcome)
    (records : List ResultRecord) : Prop :=
  records.length = g.entries.length
    ∧ ∀ k e, g.entries[k]? = some e → records[k]? = some
        (if k < n then
          { outcome := .passed
            oldValue := (cellAt (ts k) e.cell).record.value
            newValue := (cellAt (ts (k + 1)) e.cell).record.value
            oldOwner := (cellAt (ts k) e.cell).record.owner
            newOwner := (cellAt (ts (k + 1)) e.cell).record.owner
            newSeq := (cellAt (ts (k + 1)) e.cell).record.seq }
        else if k = n then
          { outcome := os k
            oldValue := (cellAt (ts k) e.cell).record.value
            newValue := (cellAt (ts k) e.cell).record.value
            oldOwner := (cellAt (ts k) e.cell).record.owner
            newOwner := (cellAt (ts k) e.cell).record.owner
            newSeq := (cellAt (ts k) e.cell).record.seq }
        else
          { outcome := .notReached, oldValue := 0, newValue := 0, oldOwner := none
            newOwner := none, newSeq := 0 })

/-- A request list with chunks added as WANTED, attempt count 0 and timer stopped; entries already
there are left as they are, and the order by chunk is kept (R102, R103). -/
def WantedAdded (chunks : List Chunk) (before after : List Request) : Prop :=
  after.Pairwise (fun a b => a.chunk < b.chunk)
    ∧ ∀ r, r ∈ after ↔ r ∈ before
        ∨ (r = { chunk := r.chunk, state := .wanted, attempts := 0, fillTimer := none }
            ∧ r.chunk ∈ chunks ∧ ∀ q ∈ before, q.chunk ≠ r.chunk)

/-- The entry counts of a list's own group items (R9). -/
def ownGroupSizes (items : List Item) : List Nat :=
  items.filterMap fun item =>
    match item with
    | .group g => if g.own then some g.entries.length else none
    | .fdat _ _ => none
    | .seed => none

/-- The station that attaches as CATCHING-UP: all 16 chunks WANTED with auto-fill on and the station not
quiet, the structures, counts and timers of Tables 4-2, 5-3 and 6-2, TXD recessive, NOT-IN-STEP with detail
16 (R98, R160). -/
def attached (s : State) : State :=
  withCause .notInStep 16 { s with
    station := .catchingUp, link := .listen, txd := [.recessive], framing := .search 0, mismatch := 0
    yield := false
    requests :=
      if s.config.autoFill && !s.config.quiet then
        ([0, 1, 2, 3, 4, 5, 6, 7, 8, 9, 10, 11, 12, 13, 14, 15] : List Chunk).map fun c =>
          { chunk := c, state := .wanted, attempts := 0, fillTimer := none }
      else []
    answers := [], seedSlot := false, seedAttempts := 0, groupAttempts := 0, answerAttempts := 0
    seedTimer := none, requestTimer := none, groupTimer := none, answerTimer := none, rxFrame := none
    windowDecision := none, groupBuffer := none, takeAbandoned := false }

/-- A station that has just left the line, from s to t (R101, R75, R12, Tables 4-2, 5-3, 6-3, 7-1): what
the teardown event clears, what waits for the teardown grant, and what is kept, a running grant and a
claim of the port among it. Without a committed group there are no needed chunks (R119). -/
def LeftLine (s t : State) : Prop :=
  t.link = .off ∧ t.txd.getLast? = some .recessive ∧ t.framing = .off ∧ t.txFrame = none ∧ t.rxFrame = none
    ∧ t.groupBuffer = none ∧ t.windowDecision = none ∧ t.yield = false ∧ t.takeAbandoned = false
    ∧ t.fdatClaim = none ∧ t.fdatCopy = none
    ∧ t.seedAttempts = 0 ∧ t.groupAttempts = 0 ∧ t.answerAttempts = 0
    ∧ ((s.committed = none → s.needed = []) → t.needed = [])
    ∧ t.running = s.running ∧ t.portClaim = s.portClaim
    ∧ (t.runningDiscarded = true ↔ s.runningDiscarded = true ∨ ∃ c, s.running = some (.fdatRead c))
    ∧ t.seedTimer = none ∧ t.requestTimer = none ∧ t.groupTimer = none ∧ t.answerTimer = none
    ∧ t.requests = [] ∧ t.answers = [] ∧ t.seedSlot = false ∧ t.committed = none
    ∧ t.teardownPending = true ∧ t.pendingClear = none
    ∧ t.items = (if s.running = some .apply then s.items.take 1 else [])
    ∧ t.discardedOwn = (ownGroupSizes (if s.running = some .apply then s.items.drop 1
        else s.items)).head?
    ∧ (s.committed.isSome = true →
        t.results = { s.results with status := .dropped } ∧ t.latches.done = true
          ∧ t.details.done = 0x07)
    ∧ (s.committed = none →
        t.results = s.results ∧ t.latches.done = s.latches.done ∧ t.details.done = s.details.done)
    ∧ t.staging = s.staging ∧ t.table = s.table ∧ t.unknownChunks = s.unknownChunks ∧ t.config = s.config ∧ t.lock = s.lock
    ∧ t.lastDivergence = s.lastDivergence ∧ t.applyPending = s.applyPending
    ∧ (∀ c, c ≠ .done → c ≠ .fault →
        causeGet t.latches c = causeGet s.latches c ∧ causeGet t.details c = causeGet s.details c)
    ∧ t.attnMode = s.attnMode ∧ t.attnMask = s.attnMask
    ∧ (s.attn = pinFor s.latches s.attnMask → t.attn = pinFor t.latches t.attnMask)
    ∧ t.pending = s.pending ∧ t.resetAsserted = s.resetAsserted ∧ t.powerHold = s.powerHold
    ∧ t.dataOut = s.dataOut

/-- The level of a bit on the line: dominant for a 0 (R44). -/
def lineBit (one : Bool) : Level := if one then .recessive else .dominant

/-- A key on the line, most significant bit first, without lead or tail (R46, R47). -/
def lineKey (key : BitVec 7) : List Level :=
  [6, 5, 4, 3, 2, 1, 0].map fun k => lineBit (key.getLsbD k)

/-- Bytes on the line: ten bits each, a dominant lead, eight data bits least significant first, a recessive
tail (R47). -/
def lineBytes (bytes : List Byte) : List Level :=
  bytes.flatMap fun b =>
    [.dominant] ++ ([0, 1, 2, 3, 4, 5, 6, 7].map fun k => lineBit (b.getLsbD k)) ++ [.recessive]

/-- An own frame on the line from its start mark, whose bits are numbered from 0: the start mark, the key,
and its bytes; of an FDAT whose records are not copied yet, H1 and H2 (R46, R47, R67, R68). -/
def ownLine (f : TxFrame) (copy : Option ChunkData) : List Level :=
  [.dominant] ++ lineKey (txKey f) ++ lineBytes
    (match txContents f copy with
    | some c =>
      [(rawFrame c).h1, (rawFrame c).h2] ++ (rawFrame c).payload
        ++ [(rawFrame c).checkHigh, (rawFrame c).checkLow]
    | none => txHeader f)

/-- What TXD carries from a frame's turnaround to its VETO slot: the slot decided, for one bit (R78). -/
def lineWindow (slot : SlotChoice) : List Level :=
  match slot with
  | .accept => [.recessive, .dominant, .recessive]
  | .veto => [.recessive, .recessive, .dominant]
  | .neither => [.recessive, .recessive, .recessive]

/-- The own start mark on the line at a bit: the frame fixed, TXD dominant, the frame taken by this
station as its own, no apply grant ended since (R52, R60, R65, R79). -/
def ownStartMark (link : Link) (f : TxFrame) (s : State) : State :=
  { s with
    link := link, txd := [.dominant], txFrame := some f, framing := .taking, appliedSinceMark := 0
    rxFrame := some { own := true, verdict := none }, windowDecision := none }

/-- Another station's start mark taken at a bit, this station driving nothing (R52, R62, R160). -/
def foreignStartMark (s : State) : State :=
  { s with
    link := .receiving, txd := [.recessive], framing := .taking, appliedSinceMark := 0
    rxFrame := some { own := false, verdict := none }, windowDecision := none }

/-- An FDAT read claim withdrawn: a waiting claim goes, and the records of a running read go nowhere
(R14, R68). -/
def withoutFdatRead (s : State) : State :=
  { s with
    fdatClaim := none, fdatCopy := none
    runningDiscarded :=
      match s.running with
      | some (.fdatRead _) => true
      | _ => s.runningDiscarded }

/-- A frame abandoned at a bit: SEARCH with the recessive count from that bit, the receive record and
the window decision empty, TXD recessive (R56, R60, R81, R160). -/
def abandoned (s : State) : State :=
  { s with
    link := .listen, txd := [.recessive], txFrame := none, framing := .search 0, rxFrame := none
    windowDecision := none, takeAbandoned := true }

/-- A step loss reported: a clear behind the items present, the open group gone, and at an IN-STEP
station no answers (R92, R11, R83, R112). -/
def stepLost (s : State) : State :=
  { s with
    pendingClear := some s.items.length, groupBuffer := none
    answers := if s.station = .inStep then [] else s.answers
    answerAttempts := if s.station = .inStep ∧ s.answers ≠ [] then 0 else s.answerAttempts
    answerTimer := if s.station = .inStep ∧ s.answers ≠ [] then none else s.answerTimer }

/-- The end of the VETO slot of a frame being taken: LISTEN, GAP, the verdict recorded, the slot that
was decided, and driven on TXD (R52, R62, R78, R81, R160). -/
def windowEnded (own : Bool) (v : Verdict) (slot : SlotChoice) (s : State) : State :=
  { s with
    link := .listen, txd := lineWindow slot, framing := .gap false, rxFrame := some { own := own, verdict := some v }
    windowDecision := some slot }

/-- The items in the apply list in the turnaround of the frame being taken, when n apply grants have ended
since: those listed now and those n, which left it since the start mark (R79, log entry 7). -/
def turnaroundItems (n : Nat) (s : State) : Nat := s.items.length + min n s.appliedSinceMark

/-- The entries held in the open group (R81). -/
def heldEntries (g : Option OpenGroup) : List Entry :=
  match g with
  | none => []
  | some o => o.entries

/-- The group item that the last UPD of a group builds at a receiver (R82, R84). -/
def groupItem (s : State) (f : Frame) (e : Entry) : Item :=
  .group
    { sender := f.sender, strict := f.strict, entries := heldEntries s.groupBuffer ++ [e]
      own := false }

/-- A frame that its sender may send (R48, R57, R67): a single-frame kind has last 1, strict 0, index
0; an FDAT is sent IN-STEP; an entry is legal at its index and index 7 is the last. -/
def Sendable (f : Frame) : Prop :=
  match f.body with
  | .seed => f.last = true ∧ f.strict = false ∧ f.index = 0
  | .freq _ => f.last = true ∧ f.strict = false ∧ f.index = 0
  | .fdat _ _ => f.last = true ∧ f.strict = false ∧ f.index = 0 ∧ f.inStep = true
  | .upd e => entryLegal f.index.toNat e = true ∧ (f.index = 7 → f.last = true)

/-- The defects of R57, R58 and R59 in a frame read to its window, against an open group. -/
def Defective (g : Option OpenGroup) (r : RawFrame) : Prop :=
  r.key.extractLsb' 5 2 ≠ kindClass (kindOfH1 r.h1)
    ∨ r.h2.toNat ≠ payloadLength (kindOfH1 r.h1)
    ∨ (kindOfH1 r.h1 ≠ .upd
        ∧ (r.h1.getLsbD 4 = false ∨ r.h1.getLsbD 3 = true ∨ r.h1.extractLsb' 0 3 ≠ 0))
    ∨ (kindOfH1 r.h1 = .upd ∧ r.h1.extractLsb' 0 3 = 7 ∧ r.h1.getLsbD 4 = false)
    ∨ ((kindOfH1 r.h1 = .freq ∨ kindOfH1 r.h1 = .fdat) ∧ 15 < (r.payload.getD 0 0).toNat)
    ∨ (kindOfH1 r.h1 = .fdat ∧ ∃ k, k < 16 ∧ 31 < (r.payload.getD (4 * k + 3) 0).toNat
        ∧ r.payload.getD (4 * k + 3) 0 ≠ 0xFF)
    ∨ (kindOfH1 r.h1 = .fdat ∧ r.h1.getLsbD 5 = false)
    ∨ (kindOfH1 r.h1 = .upd ∧ Illegal (r.h1.extractLsb' 0 3).toNat (entryOfBytes r.payload))
    ∨ (g = none ∧ r.h1.extractLsb' 0 3 ≠ 0)
    ∨ (∃ o, g = some o ∧ (kindOfH1 r.h1 ≠ .upd ∨ (r.h1.extractLsb' 0 3).toNat ≠ o.entries.length
        ∨ r.key ≠ o.key ∨ r.h1.getLsbD 3 ≠ o.strict))
    ∨ crc ((0#1 ++ r.key) :: r.h1 :: r.h2 :: r.payload) ≠ r.checkHigh ++ r.checkLow

/-! ### Invariants -/

/-- The pin is asserted exactly when at least one latched cause is unmasked (R153). -/
def AttnFollowsLatches (s : State) : Prop :=
  s.attn = true ↔ ∃ c, causeGet s.latches c = true ∧ s.attnMask.getLsbD (causeCode c) = false

/-- Every UNKNOWN cell holds value 0, owner NONE and seq 0 (R2). -/
def UnknownCellsZero (s : State) : Prop :=
  ∀ i, (cellAt s.table i).known = false → (cellAt s.table i).record = CellRecord.zero

/-- The unknown-chunk summary names the chunks that hold an UNKNOWN cell, in order (R5). -/
def SummaryAgrees (s : State) : Prop := s.unknownChunks = unknownSummary s.table

/-- Off the line the apply list is empty but for an item under a running apply grant (R12). -/
def OffLineItems (s : State) : Prop :=
  isAttached s.station = false →
    s.items.length ≤ 1 ∧ (s.running ≠ some .apply → s.items = [])
      ∧ (s.teardownPending = false → s.items = [])

/-- Station state and cells (R95, Table 6-1): IN-STEP means every cell KNOWN, CATCHING-UP at least one
UNKNOWN, OFFLINE and FAULTED every cell UNKNOWN once the teardown grant has ended; and the apply list
off the line. -/
def StationFollowsCells (s : State) : Prop :=
  SummaryAgrees s
    ∧ (s.station = .inStep → ∀ i, (cellAt s.table i).known = true)
    ∧ (s.station = .catchingUp → ∃ i, (cellAt s.table i).known = false)
    ∧ (isAttached s.station = true → s.teardownPending = false)
    ∧ (isAttached s.station = false → s.teardownPending = false →
        ∀ i, (cellAt s.table i).known = false)
    ∧ (s.running = some .teardown → s.teardownPending = true)
    ∧ OffLineItems s

/-- Link, framing and own frame agree with each other and with the station state (Tables 4-1, 6-1,
R52): a station off the line has neither, RECEIVING, CONTENDING and SENDING take a frame, HOLDING waits
in the gap, a station off the line drives nothing, and a quiet station never drives the line (R64, R160). -/
def LinkCoherent (s : State) : Prop :=
  (s.link = .off ↔ isAttached s.station = false)
    ∧ (s.framing = .off ↔ s.link = .off)
    ∧ (s.framing = .taking ↔ s.link = .receiving ∨ s.link = .contending ∨ s.link = .sending)
    ∧ (s.link = .holding → s.framing = .gap false)
    ∧ (s.txFrame.isSome = true ↔ s.link = .contending ∨ s.link = .sending ∨ s.link = .holding)
    ∧ (s.config.quiet = true → s.txFrame = none)
    ∧ (s.link = .off → s.txd.getLast? = some .recessive)
    ∧ (s.config.quiet = true → s.link ≠ .off → .dominant ∉ s.txd)

/-- The apply list never holds more than 2 items (R8), and while a frame is being taken it only shrinks:
with the items that left it since the start mark it is 2 at most (R79). A pending clear has at most the
items listed ahead of it (R11). -/
def ApplyListBounded (s : State) : Prop :=
  s.items.length ≤ 2 ∧ (s.framing = .taking → s.items.length + s.appliedSinceMark ≤ 2)
    ∧ ∀ n, s.pendingClear = some n → n ≤ s.items.length

/-- The request list is a set of chunks in order (R102). -/
def RequestsOrdered (l : List Request) : Prop := l.Pairwise fun a b => a.chunk < b.chunk

/-- One request list entry as R102 has it: its chunk holds an UNKNOWN cell, its attempt count is within
the retry limit, and its fill timer runs exactly in ASKED. -/
def RequestFits (s : State) (r : Request) : Prop :=
  (∃ i, chunkOfCell i = r.chunk ∧ (cellAt s.table i).known = false)
    ∧ r.attempts ≤ s.config.retryLimit.val
    ∧ (r.state = .asked ↔ r.fillTimer.isSome = true)

/-- The request slot's backoff timer belongs to a WANTED entry (R72). -/
def RequestTimerFits (s : State) : Prop :=
  ∀ t, s.requestTimer = some t → ∃ r ∈ s.requests, r.chunk = t.chunk ∧ r.state = .wanted

/-- An own FREQ on the line: its chunk's entry, while there is one, is WANTED (R105). -/
def RequestOnLineFits (s : State) : Prop :=
  ∀ f c, s.txFrame = some f → f.body = .freq c → ∀ r ∈ s.requests, r.chunk = c → r.state = .wanted

/-- The request list (R102), the request slot's timer (R72) and its frame on the line (R105). -/
def RequestListFits (s : State) : Prop :=
  RequestsOrdered s.requests ∧ (∀ r ∈ s.requests, RequestFits s r)
    ∧ (s.requests ≠ [] → s.station = .catchingUp ∧ s.config.quiet = false)
    ∧ RequestTimerFits s ∧ RequestOnLineFits s

/-- The answer list holds each chunk at most once and is empty unless the station is IN-STEP and not
quiet (R109). -/
def AnswerListFits (s : State) : Prop :=
  s.answers.Nodup ∧ (s.answers ≠ [] → s.station = .inStep ∧ s.config.quiet = false)

/-- An FDAT's payload read is due: its claim waits, or its grant runs and the records are wanted
(R14, R68). -/
def FdatReadDue (s : State) : Prop :=
  s.fdatClaim.isSome = true
    ∨ ∃ c, s.running = some (.fdatRead c) ∧ s.runningDiscarded = false

/-- While a read is due every cell is KNOWN, the station IN-STEP, no item listed, no clear pending, and the
own FDAT on the line without its records (R14, R64, R112). An apply grant runs on an item, a clear's grant
on a clear or beside a teardown (R10 to R12). -/
def FdatReadFits (s : State) : Prop :=
  (s.running = some .apply → s.items ≠ [])
    ∧ (s.running = some .stepLossClear → s.pendingClear.isSome = true ∨ s.teardownPending = true)
    ∧ (FdatReadDue s →
        (∀ i, (cellAt s.table i).known = true) ∧ s.station = .inStep ∧ s.items = []
          ∧ s.pendingClear = none ∧ s.framing = .taking ∧ s.fdatCopy = none
          ∧ ∃ f c, s.txFrame = some f ∧ f.body = .fdat c)
    ∧ (∀ c, s.running = some (.fdatRead c) → s.runningDiscarded = false → s.fdatClaim = none)

/-- The seed slot and the committed group exist only at an attached station that is not quiet
(R64, R115, R122, Table 6-1). -/
def SlotsNeedAttachment (s : State) : Prop :=
  s.seedSlot = true ∨ s.committed.isSome = true →
    isAttached s.station = true ∧ s.config.quiet = false

/-- Every entry of a list is legal at its position (R21). -/
def EntriesLegal (l : List Entry) : Prop := ∀ k e, l[k]? = some e → entryLegal k e = true

/-- Staging list, committed group and results list within their bounds (R119): at most 8 staged
entries, a group of 1..8, every entry legal at its index, no group committed while one is
apply-pending, and the needed chunks of R119. -/
def GroupsFit (s : State) : Prop :=
  s.staging.length ≤ 8 ∧ EntriesLegal s.staging
    ∧ (∀ g, s.committed = some g →
        1 ≤ g.entries.length ∧ g.entries.length ≤ 8 ∧ EntriesLegal g.entries
          ∧ s.applyPending = false
          ∧ (g.state = .waitFill → s.needed = neededChunks s.table g.entries ∧ s.needed ≠ [])
          ∧ (g.state ≠ .waitFill → s.needed = []))
    ∧ (s.committed = none → s.needed = [])

/-- The entries of the open group and of the listed group items: 1 to 7 held and 1 to 8 listed, each legal
at its index (R9, R21, R81, R82). -/
def HeldEntriesFit (s : State) : Prop :=
  (∀ o, s.groupBuffer = some o →
      1 ≤ o.entries.length ∧ o.entries.length ≤ 7 ∧ EntriesLegal o.entries)
    ∧ ∀ g, Item.group g ∈ s.items →
      1 ≤ g.entries.length ∧ g.entries.length ≤ 8 ∧ EntriesLegal g.entries

/-- The results list as R132 has it: at most 16 attempts and 8 records; PENDING exactly while a group is
committed or apply-pending, and then one NOT-REACHED record per entry; a committed group's attempts are its
counted ones, within the retry limit (R91). An apply-pending group is the one own item of the apply list,
or the one a teardown discarded, with as many entries as the list has records (R9, R12, R127). -/
def ResultsFit (s : State) : Prop :=
  s.results.attempts ≤ 16 ∧ s.results.records.length ≤ 8
    ∧ (s.results.status = .pending ↔ s.committed.isSome = true ∨ s.applyPending = true)
    ∧ (∀ g, s.committed = some g →
        s.results.records = List.replicate g.entries.length ResultRecord.notReached
          ∧ s.results.attempts = s.groupAttempts ∧ s.groupAttempts ≤ s.config.retryLimit.val)
    ∧ (s.applyPending = true → 1 ≤ s.results.records.length
        ∧ ∀ r ∈ s.results.records, r = ResultRecord.notReached)
    ∧ ownGroupSizes s.items ++ s.discardedOwn.toList
        = (if s.applyPending then [s.results.records.length] else [])
    ∧ (s.discardedOwn.isSome = true → s.teardownPending = true)

/-- The committed group's state follows the link (R77, Table 4-7): CONTENDING and SENDING with its own
UPD on the line, BACKOFF with its timer running; and what a holder holds after is a UPD (R62, R70). -/
def GroupFollowsLink (s : State) : Prop :=
  (∀ f e, s.txFrame = some f → f.body = .upd e → ∃ g, s.committed = some g
      ∧ g.state = (if s.link = .contending then .contending else .sending))
    ∧ (∀ g, s.committed = some g → g.state = .contending ∨ g.state = .sending →
        ∃ f e, s.txFrame = some f ∧ f.body = .upd e)
    ∧ (s.groupTimer.isSome = true ↔ ∃ g, s.committed = some g ∧ g.state = .backoff)
    ∧ (∀ f, s.link = .holding → s.txFrame = some f → ∃ e, f.body = .upd e)

/-- Port FIFO of 16 bytes (R136), mismatch count 0..4 and below 4 on the line (R74). -/
def CountsBounded (s : State) : Prop :=
  s.port.fifo.length ≤ 16 ∧ s.mismatch ≤ 4
    ∧ (isAttached s.station = true → s.mismatch < 4)

end Sys2Proof.Machine
end

