-- ==== Sys2Proof/Certificates/Slice0/Obligations.lean ====
section
/-!
DEFINITION. Certificates/Slice0/Obligations.lean: the statements for the provers. Each is a Prop about
the model, in the words of Safety.lean; OBLIGATIONS.json gives the rule each one rests on.
-/
open Sys2Proof Sys2Proof.Machine

/-! ### The machine: the queue, reset (R143, R149, R161) -/

/-- A step takes the command at the front of the queue and runs it on the queue's rest; on an empty
queue nothing happens (log entry 4: the model's own choice). -/
def Obligations.StepRunsFrontCommand : Prop :=
  (∀ (c : Instr) (q : List Instr) (s : State),
    step { s with pending := c :: q } = exec c { s with pending := q })
  ∧ ∀ s : State, s.pending = [] → step s = .next s

/-- Every field of State.reset holds the value its table gives for a hardware reset, and the status
byte reads 0x01 (Tables 1-2, 4-2, 5-3, 6-2, 7-1, 8-6, 9-2, 10-13). -/
def Obligations.ResetStateHoldsTableValues : Prop :=
  (∀ i, cellAt State.reset.table i
      = { record := { value := 0, owner := none, seq := 0 }, known := false, watch := false,
          changed := false })
  ∧ (∀ c : Chunk, c ∈ State.reset.unknownChunks) ∧ State.reset.items = []
  ∧ State.reset.resetAsserted = false ∧ State.reset.powerHold = false
  ∧ State.reset.pendingClear = none ∧ State.reset.lastDivergence = 0
  ∧ State.reset.discardedOwn = none ∧ State.reset.fdatCopy = none
  ∧ State.reset.takeAbandoned = false
  ∧ State.reset.running = none ∧ State.reset.fdatClaim = none ∧ State.reset.portClaim = none
  ∧ State.reset.link = .off ∧ State.reset.txd = [.recessive] ∧ State.reset.txFrame = none
  ∧ State.reset.seedAttempts = 0 ∧ State.reset.groupAttempts = 0 ∧ State.reset.answerAttempts = 0
  ∧ State.reset.seedTimer = none ∧ State.reset.requestTimer = none
  ∧ State.reset.groupTimer = none ∧ State.reset.answerTimer = none
  ∧ State.reset.yield = false ∧ State.reset.mismatch = 0
  ∧ State.reset.framing = .off ∧ State.reset.rxFrame = none ∧ State.reset.groupBuffer = none
  ∧ State.reset.windowDecision = none
  ∧ State.reset.station = .offline ∧ State.reset.requests = [] ∧ State.reset.answers = []
  ∧ State.reset.seedSlot = false ∧ State.reset.teardownPending = false
  ∧ State.reset.staging = [] ∧ State.reset.committed = none ∧ State.reset.applyPending = false
  ∧ State.reset.results = { status := .none, attempts := 0, records := [] }
  ∧ State.reset.needed = []
  ∧ State.reset.port = { phase := .command, fifo := [], command := none, snapshot := [] }
  ∧ State.reset.config
      = { station := 0, rate := 1, quiet := false, solo := false, retryLimit := 3,
          fillTimeout := 20, autoFill := true, impliedFill := true, attnMode := .edge,
          attnMask := 0 }
  ∧ State.reset.lock = false
  ∧ (∀ c, causeGet State.reset.latches c = false)
  ∧ (∀ c, causeGet State.reset.details c = if c = .notInStep then 16 else 0)
  ∧ State.reset.attnMode = .edge ∧ State.reset.attnMask = 0 ∧ State.reset.attn = false
  ∧ statusByte State.reset = 0x01

/-- RESET# shorter than 1 µs changes nothing; a longer assertion, power-on or a supply dip puts every block
at its reset values and holds it there, power-on and the dip by the part's own hold. Each hold ends by
itself, and the reset goes on while the other stands: RESET# low at the end of the part's own hold extends
it until its own release (R161). The end of a hold that does not stand, such as the release of an assertion
that was ignored, changes nothing: the model's choice, log entry 13. -/
def Obligations.HardwareResetIsFiltered : Prop :=
  ∀ (s : State) (held : Bool → Bool → State),
    (held = fun pin power =>
      { State.reset with pending := s.pending, resetAsserted := pin, powerHold := power }) →
    (∀ w, w < 1000 → exec (.hardwareReset (.pin w)) s = .next s)
    ∧ (∀ w, 1000 ≤ w → exec (.hardwareReset (.pin w)) s = .next (held true s.powerHold))
    ∧ exec (.hardwareReset .supplyDip) s = .next (held s.resetAsserted true)
    ∧ exec (.hardwareReset .powerOn) s = .next (held s.resetAsserted true)
    ∧ (s.resetAsserted = true → exec .resetRelease s = .next (held false s.powerHold))
    ∧ (s.powerHold = true → exec .powerHoldEnd s = .next (held s.resetAsserted false))
    ∧ (s.resetAsserted = false → exec .resetRelease s = .next s)
    ∧ (s.powerHold = false → exec .powerHoldEnd s = .next s)
    ∧ (∀ p q, inReset (held p q) = true ↔ p = true ∨ q = true)

/-- In every state held in reset the port takes no access: data and status writes are ignored, data reads
return 0, no misuse is judged, and the status byte reads 0x00. After an assertion of RESET# nothing is
latched and nothing driven, and at its release every block holds its reset values, with the port in COMMAND
and READY 1. In every state out of reset the status byte holds READY and DIRECTION of Table 8-1, the phase,
the ATTN mirror, which follows the pin whatever the mask, and the station state, as they stand
(R137, R149, Tables 8-1 and 10-13). -/
def Obligations.PortTakesNoAccessInReset : Prop :=
  (∀ s : State, s.resetAsserted = true ∨ s.powerHold = true → ArbiterSettled s →
    (∀ b, exec (.dataWrite b) s = .next s)
    ∧ (∀ v, exec (.portFlush v) s = .next s)
    ∧ exec .resultRead s = .next { s with dataOut := some 0 }
    ∧ exec .misusedRead s = .next { s with dataOut := some 0 }
    ∧ statusByte s = 0x00)
  ∧ (∀ (s : State) (w : Nat), 1000 ≤ w → s.powerHold = false → ∃ t : State,
    exec (.hardwareReset (.pin w)) s = .next t
    ∧ t.attn = false ∧ t.txd = [.recessive] ∧ t.link = .off ∧ ArbiterSettled t
    ∧ (∀ c, causeGet t.latches c = false)
    ∧ ∃ u : State, exec .resetRelease t = .next u
        ∧ u = { State.reset with pending := s.pending } ∧ u.lock = false
        ∧ u.config = Config.defaultRecord ∧ u.port.phase = .command ∧ u.port.fifo = []
        ∧ u.port.command = none ∧ portReady u.port = true ∧ statusByte u = 0x01)
  ∧ ∀ s : State, s.resetAsserted = false → s.powerHold = false →
    ((statusByte s).getLsbD 0 = true ↔
        s.port.phase = .command ∨ (s.port.phase = .result ∧ s.port.fifo ≠ []))
    ∧ ((statusByte s).getLsbD 1 = true ↔ s.port.phase = .execution ∨ s.port.phase = .result)
    ∧ (statusByte s).extractLsb' 2 2 = (match s.port.phase with
        | .command => 0
        | .execution => 1
        | .result => 2)
    ∧ (statusByte s).getLsbD 4 = s.attn
    ∧ (statusByte s).extractLsb' 5 2 = (match s.station with
        | .offline => 0
        | .catchingUp => 1
        | .inStep => 2
        | .faulted => 3)
    ∧ (statusByte s).getLsbD 7 = false

/-- RESET is the soft reset at its code byte: every block at its reset values, the record and the lock
flag kept with lock 1 and at their defaults with lock 0, no result, nothing latched (R148). -/
def Obligations.SoftResetKeepsLockedRecord : Prop :=
  ∀ s : State, inReset s = false → s.port.phase = .command → s.port.command = none →
    (s.lock = true → exec .reset s
      = .next { State.reset with
          pending := s.pending, config := s.config, lock := true
          attnMode := s.config.attnMode, attnMask := s.config.attnMask })
    ∧ (s.lock = false → exec .reset s = .next { State.reset with pending := s.pending })

/-! ### Local Port (R138 to R142) -/

/-- A byte written in COMMAND is a code byte or a parameter: an unknown code gives INVALID; a known one
fixes the number of parameters, 0 to 14; the last parameter hands the command over (R138). The commands'
codes and parameter counts are those of Table 10-18, the one-byte results' those of Table 10-17. That a
command's row is its code byte and then its parameter bytes, in the order of Table 10-18, written to the
data address one after the other is the model's choice, log entry 2. -/
def Obligations.DataWriteTakesCommandBytes : Prop :=
  (∀ (b : Byte) (op : Opcode) (n : Nat), opcodeOfByte b = some op ∧ opcodeParams op = n ↔
    (b, op, n) ∈ ([(0x01, .identify, 0), (0x02, .configure, 9), (0x03, .showConfig, 0),
        (0x04, .lock, 1), (0x05, .start, 0), (0x06, .detach, 0), (0x07, .reset, 0)]
      ++ [(0x10, .stage, 14), (0x11, .unstageAll, 0), (0x12, .commit, 1), (0x13, .withdraw, 0),
        (0x14, .results, 0), (0x20, .read, 2), (0x21, .watch, 3)]
      ++ [(0x22, .takeChanges, 0), (0x23, .peekChanges, 0), (0x30, .seed, 0), (0x31, .refill, 0),
        (0x40, .status, 0), (0x41, .peekStatus, 0), (0x42, .ackAll, 0)]
      : List (Byte × Opcode × Nat)))
  ∧ (∀ (c : Code) (b : Byte), codeByte c = b ↔
    (c, b) ∈ ([(.ok, 0x00), (.invalid, 0x01), (.badValue, 0x02), (.badEntry, 0x03), (.full, 0x04),
        (.empty, 0x05), (.inUse, 0x06), (.notOffline, 0x07)]
      ++ [(.notAttached, 0x08), (.quiet, 0x09), (.notKnown, 0x0A), (.withdrawn, 0x10),
        (.tooLate, 0x11), (.nothing, 0x12), (.dropped, 0x13)] : List (Code × Byte)))
  ∧ (∀ s t : State,
    (exec .identify s = .next t ↔ DataWrites [0x01] s t)
    ∧ (∀ p, exec (.configure p) s = .next t ↔
        DataWrites [0x02, p.stationNumber, p.lineRate, p.flags, p.retryLimit, p.fillTimeout,
          p.attnMask, p.stationComplement, p.rateComplement, p.flagsComplement] s t)
    ∧ (exec .showConfig s = .next t ↔ DataWrites [0x03] s t)
    ∧ (∀ v, exec (.lock v) s = .next t ↔ DataWrites [0x04, v] s t)
    ∧ (exec .start s = .next t ↔ DataWrites [0x05] s t)
    ∧ (exec .detach s = .next t ↔ DataWrites [0x06] s t)
    ∧ (exec .reset s = .next t ↔ DataWrites [0x07] s t)
    ∧ (∀ e, exec (.stage e) s = .next t ↔ DataWrites (0x10 :: entryBytes e) s t)
    ∧ (exec .unstageAll s = .next t ↔ DataWrites [0x11] s t)
    ∧ (∀ v, exec (.commit v) s = .next t ↔ DataWrites [0x12, v] s t)
    ∧ (exec .withdraw s = .next t ↔ DataWrites [0x13] s t)
    ∧ (exec .results s = .next t ↔ DataWrites [0x14] s t)
    ∧ (∀ first count, exec (.read first count) s = .next t ↔ DataWrites [0x20, first, count] s t)
    ∧ (∀ first count setting, exec (.watch first count setting) s = .next t ↔
        DataWrites [0x21, first, count, setting] s t)
    ∧ (exec .takeChanges s = .next t ↔ DataWrites [0x22] s t)
    ∧ (exec .peekChanges s = .next t ↔ DataWrites [0x23] s t)
    ∧ (exec .seed s = .next t ↔ DataWrites [0x30] s t)
    ∧ (exec .refill s = .next t ↔ DataWrites [0x31] s t)
    ∧ (exec .status s = .next t ↔ DataWrites [0x40] s t)
    ∧ (exec .peekStatus s = .next t ↔ DataWrites [0x41] s t)
    ∧ (exec .ackAll s = .next t ↔ DataWrites [0x42] s t))
  ∧ (∀ b, opcodeOfByte b = none ↔ b ∉ ([0x01, 0x02, 0x03, 0x04, 0x05, 0x06, 0x07, 0x10, 0x11, 0x12,
      0x13, 0x14, 0x20, 0x21, 0x22, 0x23, 0x30, 0x31, 0x40, 0x41, 0x42] : List Byte))
  ∧ (∀ op, opcodeParams op ≤ 14)
  ∧ ∀ (b : Byte) (s : State),
    inReset s = false → s.port.phase = .command → ArbiterSettled s →
    (s.port.command = none →
      (opcodeOfByte b = none → exec (.dataWrite b) s
        = .next { s with
            port := { phase := .result, fifo := [0x01], command := none, snapshot := [] } })
      ∧ ∀ op, opcodeOfByte b = some op →
        (opcodeParams op ≠ 0 → exec (.dataWrite b) s
          = .next { s with
              port :=
                { phase := .command, fifo := [], snapshot := []
                  command :=
                    some { op := op, needed := opcodeParams op, received := 0, wait := none } } })
        ∧ (opcodeParams op = 0 →
            exec (.dataWrite b) s = .next (settle (handOver op [] { s with port := executing op }))))
    ∧ ∀ c, s.port.command = some c →
      (s.port.fifo.length + 1 < opcodeParams c.op → exec (.dataWrite b) s
        = .next { s with
            port :=
              { phase := .command, fifo := s.port.fifo ++ [b], snapshot := []
                command :=
                  some
                    { op := c.op, needed := opcodeParams c.op
                      received := s.port.fifo.length + 1, wait := none } } })
      ∧ (s.port.fifo.length + 1 = opcodeParams c.op → exec (.dataWrite b) s
          = .next
              (settle (handOver c.op (s.port.fifo ++ [b]) { s with port := executing c.op })))

/-- Port misuse is judged from the phase first and READY second; PORT-ERROR latches with the kind; the
access is discarded, a misused read returns 0, and nothing else changes (R141, Table 8-4). -/
def Obligations.MisuseLatchesPortErrorOnly : Prop :=
  ∀ s : State, inReset s = false → ArbiterSettled s →
    (s.port.phase = .command →
      exec .misusedRead s = .next (withCause .portError 0x01 { s with dataOut := some 0 })
      ∧ exec .resultRead s = .next (withCause .portError 0x01 { s with dataOut := some 0 }))
    ∧ (s.port.phase = .result → ∀ b, exec (.dataWrite b) s = .next (withCause .portError 0x02 s))
    ∧ (s.port.phase = .execution →
      ∀ b, exec (.dataWrite b) s = .next (withCause .portError 0x03 s))
    ∧ (s.port.phase = .execution ∨ (s.port.phase = .result ∧ s.port.fifo = []) →
      exec .misusedRead s = .next (withCause .portError 0x04 { s with dataOut := some 0 })
      ∧ exec .resultRead s = .next (withCause .portError 0x04 { s with dataOut := some 0 }))
    ∧ ∀ v t, exec (.portFlush v) s = .next t →
        t.latches = s.latches ∧ t.details = s.details ∧ t.attn = s.attn

/-- A data read in RESULT returns the next byte; the last byte of the result returns the port to
COMMAND; the last byte in the FIFO with more in the snapshot raises a refill claim; the refill moves
the next 16 bytes, or the rest, and touches nothing else (R140, R13). -/
def Obligations.ResultReadsAndRefills : Prop :=
  (∀ (s : State) (b : Byte) (rest : List Byte),
    inReset s = false → s.port.phase = .result → s.port.fifo = b :: rest → ArbiterSettled s →
    (rest ≠ [] → exec .resultRead s
      = .next { s with dataOut := some b, port := { s.port with fifo := rest } })
    ∧ (rest = [] → s.port.snapshot = [] → exec .resultRead s
      = .next { s with
          dataOut := some b
          port := { phase := .command, fifo := [], command := none, snapshot := [] } })
    ∧ (rest = [] → s.port.snapshot ≠ [] → exec .resultRead s
      = .next (settle { s with
          dataOut := some b, port := { s.port with fifo := [] }, portClaim := some .refill })))
  ∧ ∀ s : State, s.running = some (.port .refill) →
    (s.runningDiscarded = false → exec .resultRefill s
      = .next (settle { s with
          running := none
          port :=
            { s.port with
              fifo := s.port.snapshot.take 16, snapshot := s.port.snapshot.drop 16 } }))
    ∧ (s.runningDiscarded = true → exec .resultRefill s
      = .next (settle { s with running := none, runningDiscarded := false }))

/-- A write to the status address takes the port to COMMAND with nothing in progress, withdraws a
waiting claim, lets a running grant of the port end with its effects but without its result, keeps a
waiting SEED's slot, and has no effect in reset (R142, Table 8-5). -/
def Obligations.PortFlushDropsCommandInProgress : Prop :=
  ∀ (v : Byte) (s : State),
    (inReset s = true → exec (.portFlush v) s = .next s)
    ∧ (inReset s = false → ArbiterSettled s → ∃ d : Bool,
        exec (.portFlush v) s
          = .next { s with
              port := { phase := .command, fifo := [], command := none, snapshot := [] }
              portClaim := none, runningDiscarded := d }
        ∧ (d = true ↔ s.runningDiscarded = true ∨ ∃ c, s.running = some (.port c)))
    ∧ (inReset s = false → ArbiterSettled s → s.port = Port.idle → s.portClaim = none →
        (∀ c, s.running = some (.port c) → s.runningDiscarded = true) →
        exec (.portFlush v) s = .next s)
    ∧ ∀ op, s.running = some (.port (.command op)) → s.runningDiscarded = true →
        exec .tableCommandGrant s
          = .next (settle { s with
              running := none, runningDiscarded := false, table := tableAfter op s.table })

/-! ### Configuration Store (R144 to R147) -/

/-- IDENTIFY returns 0x6C, 0x34 and the revision 0x01 in every station state and changes nothing
(R147). -/
def Obligations.IdentifyReturnsThreeBytes : Prop :=
  ∀ s : State, Ready s →
    exec .identify s = .next { s with port := resultPort .identify [0x6C, 0x34, 0x01] }

/-- CONFIGURE: NOT-OFFLINE outside OFFLINE, then BAD-VALUE for a field out of range, else every field
takes its value and the attention copies are given; the lock flag never changes (R144). -/
def Obligations.ConfigureWritesWholeRecord : Prop :=
  ∀ (p : ConfigBytes) (s : State), Ready s →
    (s.station ≠ .offline →
      exec (.configure p) s = .next { s with port := codePort .configure .notOffline })
    ∧ (s.station = .offline →
      (31 < p.stationNumber.toNat ∨ 3 < p.lineRate.toNat ∨ 32 ≤ p.flags.toNat
          ∨ 15 < p.retryLimit.toNat ∨ p.fillTimeout = 0 ∨ p.stationComplement ≠ ~~~p.stationNumber
          ∨ p.rateComplement ≠ ~~~p.lineRate ∨ p.flagsComplement ≠ ~~~p.flags →
        exec (.configure p) s = .next { s with port := codePort .configure .badValue })
      ∧ (p.stationNumber.toNat ≤ 31 ∧ p.lineRate.toNat ≤ 3 ∧ p.flags.toNat < 32
          ∧ p.retryLimit.toNat ≤ 15 ∧ p.fillTimeout ≠ 0 ∧ p.stationComplement = ~~~p.stationNumber
          ∧ p.rateComplement = ~~~p.lineRate ∧ p.flagsComplement = ~~~p.flags →
        ∃ c : ConfigRecord,
          c.station.val = p.stationNumber.toNat ∧ c.rate.val = p.lineRate.toNat
          ∧ c.quiet = p.flags.getLsbD 0 ∧ c.solo = p.flags.getLsbD 1
          ∧ c.autoFill = p.flags.getLsbD 2 ∧ c.impliedFill = p.flags.getLsbD 3
          ∧ (c.attnMode = .level ↔ p.flags.getLsbD 4 = true)
          ∧ c.retryLimit.val = p.retryLimit.toNat ∧ c.fillTimeout = p.fillTimeout
          ∧ c.attnMask = p.attnMask
          ∧ exec (.configure p) s
            = .next { s with
                config := c, attnMode := c.attnMode, attnMask := c.attnMask
                attn := pinFor s.latches c.attnMask, port := codePort .configure .ok }
          ∧ (c = s.config → s.attnMode = s.config.attnMode → s.attnMask = s.config.attnMask →
              s.attn = pinFor s.latches s.attnMask →
              exec (.configure p) s = .next { s with port := codePort .configure .ok })))

/-- SHOW CONFIG returns the nine bytes of the record, bytes 7 to 9 the complements of bytes 1 to 3, and
the lock flag; it changes nothing, and the nine bytes are a CONFIGURE of the same record (R145). -/
def Obligations.ShowConfigReturnsRecord : Prop :=
  ∀ s : State, Ready s →
    ∃ n r f : Byte,
      n.toNat = s.config.station.val ∧ r.toNat = s.config.rate.val
      ∧ f.getLsbD 0 = s.config.quiet ∧ f.getLsbD 1 = s.config.solo
      ∧ f.getLsbD 2 = s.config.autoFill ∧ f.getLsbD 3 = s.config.impliedFill
      ∧ f.getLsbD 4 = decide (s.config.attnMode = .level) ∧ f.toNat < 32
      ∧ exec .showConfig s
        = .next { s with
            port := resultPort .showConfig
              [n, r, f, BitVec.ofNat 8 s.config.retryLimit.val, s.config.fillTimeout,
                s.config.attnMask, ~~~n, ~~~r, ~~~f, if s.lock then 1 else 0] }
      ∧ (s.config.fillTimeout ≠ 0 → s.station = .offline →
          ∃ t, exec (.configure
              { stationNumber := n, lineRate := r, flags := f
                retryLimit := BitVec.ofNat 8 s.config.retryLimit.val
                fillTimeout := s.config.fillTimeout, attnMask := s.config.attnMask
                stationComplement := ~~~n, rateComplement := ~~~r, flagsComplement := ~~~f }) s
              = .next t
            ∧ t.config = s.config ∧ t.port = codePort .configure .ok)

/-- LOCK sets the flag to a parameter 0 or 1 in every station state; any other value is BAD-VALUE. The
flag decides what a soft reset does to the configuration, the record kept with lock 1 and at its defaults
with lock 0, and does not stop CONFIGURE (R146). -/
def Obligations.LockDecidesSoftReset : Prop :=
  ∀ (v : Byte) (s : State), Ready s →
    (v = 0 → exec (.lock v) s = .next { s with lock := false, port := codePort .lock .ok })
    ∧ (v = 1 → exec (.lock v) s = .next { s with lock := true, port := codePort .lock .ok })
    ∧ (v ≠ 0 → v ≠ 1 → exec (.lock v) s = .next { s with port := codePort .lock .badValue })
    ∧ (∀ p b, s.station = .offline → configInRange p = true →
        ∃ t, exec (.configure p) { s with lock := b } = .next t ∧ t.config = configRecordOf p
          ∧ t.lock = b ∧ t.port = codePort .configure .ok)
    ∧ (s.lock = true → ∃ t, exec .reset s = .next t ∧ t.config = s.config ∧ t.lock = true)
    ∧ (s.lock = false → ∃ t, exec .reset s = .next t ∧ t.lock = false
        ∧ t.config
          = { station := 0, rate := 1, quiet := false, solo := false, retryLimit := 3
              fillTimeout := 20, autoFill := true, impliedFill := true, attnMode := .edge
              attnMask := 0 })

/-! ### Table commands (R16 to R19) -/

/-- READ: BAD-VALUE with no claim for a count of 0, a count above 16 or a range past cell 255; else it
claims the port, and its grant reports the cells in index order, six bytes each, changing no cell and
no flag (R16, Table 10-10). -/
def Obligations.ReadReportsCells : Prop :=
  ∀ (first count : Byte) (s : State),
    (Ready s →
      (count.toNat = 0 ∨ 16 < count.toNat ∨ 255 < first.toNat + count.toNat - 1 →
        exec (.read first count) s = .next { s with port := codePort .read .badValue })
      ∧ (1 ≤ count.toNat → count.toNat ≤ 16 → first.toNat + count.toNat - 1 ≤ 255 →
        exec (.read first count) s
          = .next (settle { s with
              port := waitingPort .read .grant
              portClaim := some (.command (.read first count)) })))
    ∧ (s.running = some (.port (.command (.read first count))) → s.runningDiscarded = false →
      s.port = waitingPort .read .grant → 1 ≤ count.toNat → count.toNat ≤ 16 →
      exec .tableCommandGrant s
        = .next (settle { s with
            running := none
            port := resultPort .read ((List.range count.toNat).flatMap fun k =>
              let i := first + BitVec.ofNat 8 k
              let c := cellAt s.table i
              [i, 0#5 ++ BitVec.ofBool c.changed ++ BitVec.ofBool c.watch ++ BitVec.ofBool c.known,
                c.record.value.extractLsb' 8 8, c.record.value.extractLsb' 0 8,
                ownerByte c.record.owner, c.record.seq]) }))

/-- WATCH: BAD-VALUE with no claim for a range past cell 255 or a setting other than 0 and 1, a count of
0 meaning 256; else its grant sets the watch flags of the range and nothing else (R17). -/
def Obligations.WatchSetsRange : Prop :=
  ∀ (first count setting : Byte) (n : Nat) (s : State),
    n = (if count = 0 then 256 else count.toNat) →
    (Ready s →
      (255 < first.toNat + n - 1 ∨ (setting ≠ 0 ∧ setting ≠ 1) →
        exec (.watch first count setting) s = .next { s with port := codePort .watch .badValue })
      ∧ (first.toNat + n - 1 ≤ 255 → setting = 0 ∨ setting = 1 →
        exec (.watch first count setting) s
          = .next (settle { s with
              port := waitingPort .watch .grant
              portClaim := some (.command (.watch first count (setting == 1))) })))
    ∧ ∀ on, s.running = some (.port (.command (.watch first count on))) →
        s.runningDiscarded = false → s.port = waitingPort .watch .grant →
        ∃ tb : Table,
          (∀ i, cellAt tb i =
            if first.toNat ≤ i.toNat ∧ i.toNat < first.toNat + n then
              { cellAt s.table i with watch := on }
            else cellAt s.table i)
          ∧ exec .tableCommandGrant s
            = .next (settle { s with
                running := none, table := tb, port := codePort .watch .ok })

/-- TAKE CHANGES and PEEK CHANGES: the grant copies the 256 changed flags into a 32-byte bitmap, cell n
at bit (n mod 8) of byte n div 8; TAKE clears every flag, PEEK none (R18, R19). -/
def Obligations.ChangesBitmap : Prop :=
  ∀ s : State,
    (Ready s →
      exec .takeChanges s
        = .next (settle { s with
            port := waitingPort .takeChanges .grant, portClaim := some (.command .take) })
      ∧ exec .peekChanges s
        = .next (settle { s with
            port := waitingPort .peekChanges .grant, portClaim := some (.command .peek) }))
    ∧ ∃ bytes : List Byte, bytes.length = 32
      ∧ (∀ i : Byte, (bytes.getD (i.toNat / 8) 0).getLsbD (i.toNat % 8) = (cellAt s.table i).changed)
      ∧ (s.running = some (.port (.command .take)) → s.runningDiscarded = false →
          s.port = waitingPort .takeChanges .grant →
          ∃ tb : Table, (∀ i, cellAt tb i = { cellAt s.table i with changed := false })
            ∧ exec .tableCommandGrant s
              = .next (settle { s with
                  running := none, table := tb, port := resultPort .takeChanges bytes }))
      ∧ (s.running = some (.port (.command .peek)) → s.runningDiscarded = false →
          s.port = waitingPort .peekChanges .grant →
          exec .tableCommandGrant s
            = .next (settle { s with running := none, port := resultPort .peekChanges bytes }))

/-! ### Attention (R152 to R156) -/

/-- STATUS returns the latched cause of the highest rank, masked or not, with its detail, and clears its
latch, but for a condition cause in LEVEL mode whose condition holds; with no latch set it returns
NONE and 0 and changes nothing. The codes, which are the ranks, are those of Table 9-1 (R154, R152,
R153). -/
def Obligations.StatusTakesHighestRank : Prop :=
  causeCode .fault = 0 ∧ causeCode .notInStep = 1 ∧ causeCode .diverge = 2 ∧ causeCode .fillFail = 3
  ∧ causeCode .inStep = 4 ∧ causeCode .done = 5 ∧ causeCode .watch = 6 ∧ causeCode .portError = 7
  ∧ ∀ s : State, Ready s →
    ((∀ c, causeGet s.latches c = false) →
      exec .status s = .next { s with port := resultPort .status [0xFF, 0] })
    ∧ ∀ c, causeGet s.latches c = true →
      (∀ d, causeCode d < causeCode c → causeGet s.latches d = false) →
      ∃ again : Bool,
        (again = true ↔ s.attnMode = .level
          ∧ ((c = .fault ∧ s.station = .faulted) ∨ (c = .notInStep ∧ s.station = .catchingUp)))
        ∧ exec .status s
          = .next { s with
              latches := causeSet s.latches c again
              attn := pinFor (causeSet s.latches c again) s.attnMask
              port := resultPort .status [BitVec.ofNat 8 (causeCode c), causeGet s.details c] }

/-- PEEK STATUS returns the latch set, the mask, the pin, the station state, the committed group state
and the last divergence count, and changes nothing (R155, Table 10-16). -/
def Obligations.PeekStatusReturnsSixBytes : Prop :=
  ∀ s : State, Ready s → ∃ latched : Byte,
    (∀ c, latched.getLsbD (causeCode c) = causeGet s.latches c)
    ∧ exec .peekStatus s
      = .next { s with
          port := resultPort .peekStatus
            [latched, s.attnMask, if s.attn then 1 else 0,
              match s.station with
              | .offline => 0
              | .catchingUp => 1
              | .inStep => 2
              | .faulted => 3,
              match s.committed with
              | none => 0
              | some g =>
                match g.state with
                | .waitFill => 1
                | .queued => 2
                | .contending => 3
                | .sending => 4
                | .backoff => 5,
              BitVec.ofNat 8 s.lastDivergence] }

/-- ACK ALL clears every latch but the condition causes that LEVEL mode sets again, keeps the details
and judges the pin; in EDGE mode every latch is clear and the pin deasserted (R156). That LEVEL mode
sets again only a latch that was set is the model's reading, log entry 17. -/
def Obligations.AckAllClearsLatches : Prop :=
  ∀ s : State, Ready s → ∃ l : PerCause Bool,
    (∀ c, causeGet l c = true ↔ causeGet s.latches c = true ∧ s.attnMode = .level
      ∧ ((c = .fault ∧ s.station = .faulted) ∨ (c = .notInStep ∧ s.station = .catchingUp)))
    ∧ exec .ackAll s
      = .next { s with latches := l, attn := pinFor l s.attnMask, port := codePort .ackAll .ok }
    ∧ (s.attnMode = .edge → pinFor l s.attnMask = false)

/-! ### Staging and commit (R120 to R133) -/

/-- STAGE: NOT-ATTACHED in FAULTED, then FULL at 8 entries, then BAD-ENTRY for an illegal entry at the
position it would take, else the entry is appended as written; UNSTAGE ALL empties the staging list
and nothing else (R120, R121). -/
def Obligations.StageAndUnstage : Prop :=
  (∀ (e : Entry) (s : State), Ready s →
    (s.station = .faulted →
      exec (.stage e) s = .next { s with port := codePort .stage .notAttached })
    ∧ (s.station ≠ .faulted → 8 ≤ s.staging.length →
      exec (.stage e) s = .next { s with port := codePort .stage .full })
    ∧ (s.station ≠ .faulted → s.staging.length < 8 → Illegal s.staging.length e →
      exec (.stage e) s = .next { s with port := codePort .stage .badEntry })
    ∧ (s.station ≠ .faulted → s.staging.length < 8 → ¬ Illegal s.staging.length e →
      exec (.stage e) s
        = .next { s with staging := s.staging ++ [e], port := codePort .stage .ok }))
  ∧ ∀ s : State, Ready s →
    exec .unstageAll s = .next { s with staging := [], port := codePort .unstageAll .ok }

/-- COMMIT is refused, and changes nothing, at the first test of Table 7-2 that applies (R122). -/
def Obligations.CommitRefusals : Prop :=
  ∀ (strict : Byte) (s : State), Ready s →
    let refused : Code → Prop := fun c =>
      exec (.commit strict) s = .next { s with port := codePort .commit c }
    (strict ≠ 0 → strict ≠ 1 → refused .badValue)
    ∧ (strict = 0 ∨ strict = 1 →
      (s.station = .offline ∨ s.station = .faulted → refused .notAttached)
      ∧ (s.station = .catchingUp ∨ s.station = .inStep →
        (s.config.quiet = true → refused .quiet)
        ∧ (s.config.quiet = false →
          (s.staging = [] → refused .empty)
          ∧ (s.staging ≠ [] →
            (s.committed.isSome = true ∨ s.applyPending = true → refused .inUse)
            ∧ (s.committed = none → s.applyPending = false → s.config.impliedFill = false →
                (∃ e ∈ s.staging, ∃ i, Names e i ∧ (cellAt s.table i).known = false) →
                refused .notKnown)))))

/-- An accepted COMMIT makes the staging list the committed group, resets the results list to PENDING
with NOT-REACHED records, and queues the group, or has it wait for the chunks of its UNKNOWN named
cells, which are asked for (R123, R124). -/
def Obligations.CommitTakesStagingList : Prop :=
  ∀ (strict : Byte) (s : State), Ready s → strict = 0 ∨ strict = 1 →
    s.station = .catchingUp ∨ s.station = .inStep → s.config.quiet = false → s.staging ≠ [] →
    s.committed = none → s.applyPending = false →
    RequestsOrdered s.requests → RequestTimerFits s →
    ((∀ e ∈ s.staging, ∀ i, Names e i → (cellAt s.table i).known = true) →
      exec (.commit strict) s
        = .next { s with
            staging := []
            committed :=
              some { entries := s.staging, strict := strict == 1, state := .queued }
            results :=
              { status := .pending, attempts := 0
                records := List.replicate s.staging.length
                  { outcome := .notReached, oldValue := 0, newValue := 0, oldOwner := none,
                    newOwner := none, newSeq := 0 } }
            groupAttempts := 0, needed := [], port := codePort .commit .ok })
    ∧ ((∃ e ∈ s.staging, ∃ i, Names e i ∧ (cellAt s.table i).known = false) →
      s.config.impliedFill = true →
      ∃ (chunks : List Chunk) (l : List Request),
        chunks.Pairwise (· < ·)
        ∧ (∀ c, c ∈ chunks ↔ ∃ e ∈ s.staging, ∃ i, Names e i ∧ chunkOfCell i = c
            ∧ (cellAt s.table i).known = false)
        ∧ WantedAdded chunks s.requests l
        ∧ exec (.commit strict) s
          = .next { s with
              staging := []
              committed :=
                some { entries := s.staging, strict := strict == 1, state := .waitFill }
              results :=
                { status := .pending, attempts := 0
                  records := List.replicate s.staging.length
                    { outcome := .notReached, oldValue := 0, newValue := 0, oldOwner := none,
                      newOwner := none, newSeq := 0 } }
              groupAttempts := 0, needed := chunks, requests := l
              port := codePort .commit .ok })

/-- WITHDRAW ends a group in WAIT-FILL, QUEUED or BACKOFF as WITHDRAWN without DONE; in CONTENDING or
SENDING it returns TOO-LATE, with no committed group NOTHING, and changes nothing (R130, Table 7-4). -/
def Obligations.WithdrawByGroupState : Prop :=
  ∀ s : State, Ready s →
    (s.committed = none → exec .withdraw s = .next { s with port := codePort .withdraw .nothing })
    ∧ ∀ g, s.committed = some g →
      (g.state = .contending ∨ g.state = .sending →
        exec .withdraw s = .next { s with port := codePort .withdraw .tooLate })
      ∧ (g.state = .waitFill ∨ g.state = .queued ∨ g.state = .backoff →
        exec .withdraw s
          = .next { s with
              committed := none, groupTimer := none, needed := []
              results := { s.results with status := .withdrawn }
              port := codePort .withdraw .withdrawn })

/-- RESULTS returns the group status, the attempt count, the entry count n and n records of eight bytes,
copied when the command is taken, and clears nothing; the status and outcome codes are those of Tables
10-8 and 10-7 (R133, Tables 10-7 to 10-9). -/
def Obligations.ResultsReturnsWholeList : Prop :=
  groupStatusCode .none = 0x00 ∧ groupStatusCode .applied = 0x01 ∧ groupStatusCode .void = 0x02
  ∧ groupStatusCode .undetermined = 0x03 ∧ groupStatusCode .rejected = 0x04
  ∧ groupStatusCode .withdrawn = 0x05 ∧ groupStatusCode .fillFailed = 0x06
  ∧ groupStatusCode .dropped = 0x07 ∧ groupStatusCode .pending = 0x80
  ∧ outcomeCode .passed = 0 ∧ outcomeCode .failed = 1 ∧ outcomeCode .skipped = 2
  ∧ outcomeCode .undetermined = 3 ∧ outcomeCode .notReached = 4
  ∧ ∀ s : State, Ready s →
    exec .results s
      = .next { s with
          port := resultPort .results
            ([groupStatusCode s.results.status, BitVec.ofNat 8 s.results.attempts,
                BitVec.ofNat 8 s.results.records.length]
              ++ s.results.records.flatMap fun r =>
                [outcomeCode r.outcome, r.oldValue.extractLsb' 8 8, r.oldValue.extractLsb' 0 8,
                  r.newValue.extractLsb' 8 8, r.newValue.extractLsb' 0 8, ownerByte r.oldOwner,
                  ownerByte r.newOwner, r.newSeq]) }

/-! ### Catch-up Unit (R98 to R107) -/

/-- START: NOT-OFFLINE when attached; it waits for a teardown that has not ended; else the station
attaches as CATCHING-UP, all 16 chunks WANTED with auto-fill on and the station not quiet, NOT-IN-STEP
latched with detail 16, and the replica is not touched (R98, Tables 4-2, 5-3, 6-2). That TXD is kept
recessive from that step is R160 as log entry 10 has it. -/
def Obligations.StartAttaches : Prop :=
  ∀ s : State, Ready s →
    (s.station = .catchingUp ∨ s.station = .inStep →
      exec .start s = .next { s with port := codePort .start .notOffline })
    ∧ (s.station = .offline ∨ s.station = .faulted →
      (s.teardownPending = true →
        exec .start s = .next { s with port := waitingPort .start .startTeardown })
      ∧ (s.teardownPending = false →
        exec .start s = .next { attached s with port := codePort .start .ok }))

/-- DETACH: NOT-ATTACHED in OFFLINE; from FAULTED it moves to OFFLINE, waiting for a teardown that has
not ended; from CATCHING-UP or IN-STEP the station leaves the line in one event and the result waits
for the teardown grant, the mismatch count kept (R99, R101). -/
def Obligations.DetachLeavesLine : Prop :=
  ∀ s : State, Ready s →
    (s.station = .offline →
      exec .detach s = .next { s with port := codePort .detach .notAttached })
    ∧ (s.station = .faulted → s.teardownPending = false →
      exec .detach s = .next { s with station := .offline, port := codePort .detach .ok })
    ∧ (s.station = .faulted → s.teardownPending = true →
      exec .detach s
        = .next { s with station := .offline, port := waitingPort .detach .detachTeardown })
    ∧ (s.station = .catchingUp ∨ s.station = .inStep →
      ∃ t, exec .detach s = .next (settle t) ∧ t.station = .offline ∧ LeftLine s t
        ∧ t.txd = [.recessive]
        ∧ t.mismatch = s.mismatch ∧ t.latches.fault = s.latches.fault
        ∧ t.details.fault = s.details.fault
        ∧ t.port = waitingPort .detach .detachTeardown)

/-- SEED: NOT-ATTACHED, QUIET, IN-USE in that order; else the seed slot fills, its attempt count is 0,
and the command stays in EXECUTION (R115). -/
def Obligations.SeedFillsSlot : Prop :=
  ∀ s : State, Ready s →
    (s.station = .offline ∨ s.station = .faulted →
      exec .seed s = .next { s with port := codePort .seed .notAttached })
    ∧ (s.station = .catchingUp ∨ s.station = .inStep →
      (s.config.quiet = true → exec .seed s = .next { s with port := codePort .seed .quiet })
      ∧ (s.config.quiet = false → s.seedSlot = true →
        exec .seed s = .next { s with port := codePort .seed .inUse })
      ∧ (s.config.quiet = false → s.seedSlot = false →
        exec .seed s
          = .next { s with
              seedSlot := true, seedAttempts := 0, port := waitingPort .seed .seedSlot }))

/-- REFILL: NOT-ATTACHED, then QUIET, changing nothing; else every chunk that holds an UNKNOWN cell and
is not in the request list is added, with no claim on the table port; at an IN-STEP station nothing is
added (R104). -/
def Obligations.RefillAsksForUnknownChunks : Prop :=
  ∀ s : State, Ready s →
    (s.station = .offline ∨ s.station = .faulted →
      exec .refill s = .next { s with port := codePort .refill .notAttached })
    ∧ (s.station = .catchingUp ∨ s.station = .inStep →
      (s.config.quiet = true → exec .refill s = .next { s with port := codePort .refill .quiet })
      ∧ (s.config.quiet = false → SummaryAgrees s → RequestsOrdered s.requests →
          RequestTimerFits s →
        (∃ l, WantedAdded s.unknownChunks s.requests l
          ∧ (∀ c, c ∈ s.unknownChunks ↔ ∃ i, chunkOfCell i = c ∧ (cellAt s.table i).known = false)
          ∧ exec .refill s = .next { s with requests := l, port := codePort .refill .ok })
        ∧ ((∀ i, (cellAt s.table i).known = true) →
          exec .refill s = .next { s with port := codePort .refill .ok })))

/-- A fill timer's expiry raises its entry's count: within the limit the entry is WANTED again with its
timer stopped and no backoff; above it the entry goes, FILL-FAIL latches with the chunk, and a WAIT-FILL
group that needs the chunk ends FILL-FAILED with DONE. A backoff timer's expiry makes its candidate
eligible again and returns a group to QUEUED (R107, R105, R125, R72, R77). -/
def Obligations.TimersExpire : Prop :=
  (∀ (s : State) (r : Request), ArbiterSettled s → RequestsOrdered s.requests →
    RequestTimerFits s → r ∈ s.requests → r.state = .asked → r.fillTimer.isSome = true →
    (r.attempts + 1 ≤ s.config.retryLimit.val →
      exec (.fillTimerExpiry r.chunk) s
        = .next { s with
            requests := s.requests.map fun x =>
              if x.chunk = r.chunk then
                { chunk := r.chunk, state := .wanted, attempts := r.attempts + 1,
                  fillTimer := none }
              else x })
    ∧ (s.config.retryLimit.val < r.attempts + 1 → ∀ u : State,
      u = withCause .fillFail (BitVec.ofNat 8 r.chunk.val)
        { s with requests := s.requests.filter fun x => x.chunk != r.chunk } →
      ((∃ g, s.committed = some g ∧ g.state = .waitFill) ∧ r.chunk ∈ s.needed →
        exec (.fillTimerExpiry r.chunk) s
          = .next (withCause .done 0x06 { u with
              committed := none, groupTimer := none, needed := []
              results := { s.results with status := .fillFailed } }))
      ∧ (¬ ((∃ g, s.committed = some g ∧ g.state = .waitFill) ∧ r.chunk ∈ s.needed) →
        exec (.fillTimerExpiry r.chunk) s = .next u)))
  ∧ ∀ s : State, ArbiterSettled s →
    (s.seedTimer.isSome = true →
      exec (.backoffExpiry .seed) s = .next { s with seedTimer := none })
    ∧ (s.requestTimer.isSome = true →
      exec (.backoffExpiry .request) s = .next { s with requestTimer := none })
    ∧ (s.answerTimer.isSome = true →
      exec (.backoffExpiry .answer) s = .next { s with answerTimer := none })
    ∧ (∀ g, s.groupTimer.isSome = true → s.committed = some g →
      exec (.backoffExpiry .group) s
        = .next { s with groupTimer := none, committed := some { g with state := .queued } })

/-! ### Evaluation of an entry and of a group (R22 to R42) -/

/-- The three tests: match on the masked value and reference, magnitude on them as unsigned numbers,
owner against the group's sender; they pass together or the entry fails (R23 to R26). -/
def Obligations.EntryTestsAsTabled : Prop :=
  ∀ (e : Entry) (sender : Station) (r : CellRecord),
    (matchPasses e r.value = true ↔
      e.matchFn = .any
      ∨ (e.matchFn = .same ∧ r.value &&& e.matchMask = e.reference &&& e.matchMask)
      ∨ (e.matchFn = .different ∧ r.value &&& e.matchMask ≠ e.reference &&& e.matchMask))
    ∧ (e.matchMask = 0 → (e.matchFn = .same → matchPasses e r.value = true)
        ∧ (e.matchFn = .different → matchPasses e r.value = false))
    ∧ (∀ v f : Nat, v = (r.value &&& e.magnitudeMask).toNat →
        f = (e.reference &&& e.magnitudeMask).toNat →
        (magnitudePasses e r.value = true ↔
          e.magnitudeFn = .any ∨ (e.magnitudeFn = .gt ∧ v > f) ∨ (e.magnitudeFn = .eq ∧ v = f)
          ∨ (e.magnitudeFn = .ge ∧ v ≥ f) ∨ (e.magnitudeFn = .le ∧ v ≤ f)
          ∨ (e.magnitudeFn = .ne ∧ v ≠ f) ∨ (e.magnitudeFn = .lt ∧ v < f)))
    ∧ (ownerPasses e sender r.owner = true ↔
        e.ownerTest = .any ∨ (e.ownerTest = .free ∧ r.owner = none)
        ∨ (e.ownerTest = .mine ∧ r.owner = some sender)
        ∨ (e.ownerTest = .freeOrMine ∧ (r.owner = none ∨ r.owner = some sender)))
    ∧ (testsPass e sender r = true ↔ matchPasses e r.value = true
        ∧ magnitudePasses e r.value = true ∧ ownerPasses e sender r.owner = true)

/-- The eight value actions on the whole 16-bit value (R27, Table 2-3). -/
def Obligations.ValueActionsAsTabled : Prop :=
  ∀ v o : Value,
    actionResult .keep v o = v ∧ (actionResult .zero v o).toNat = 0 ∧ actionResult .set v o = o
    ∧ (actionResult .invert v o).toNat = 65535 - v.toNat
    ∧ (actionResult .addSat v o).toNat = min (v.toNat + o.toNat) 65535
    ∧ (actionResult .subSat v o).toNat = v.toNat - o.toNat
    ∧ (actionResult .addWrap v o).toNat = (v.toNat + o.toNat) % 65536
    ∧ ((actionResult .subWrap v o).toNat + o.toNat) % 65536 = v.toNat

/-- A result reaches the cell bit by bit through the write mask; a mask of 0xFFFF writes it whole, a
mask of 0 leaves the value, a plain entry uses 0xFFFF; ADD-WRAP of 0x0020 on 0x12F0 under 0x00FF gives
0x1210 (R28). -/
def Obligations.WriteMaskMergesBits : Prop :=
  (∀ (mask old result : Value) (k : Nat),
    (mergeMask mask old result).getLsbD k
      = if mask.getLsbD k then result.getLsbD k else old.getLsbD k)
  ∧ (∀ old result : Value, mergeMask 0xFFFF old result = result ∧ mergeMask 0 old result = old)
  ∧ (∀ e : Entry, effectiveMask e = if e.plain then 0xFFFF else e.writeMask)
  ∧ mergeMask 0x00FF 0x12F0 (actionResult .addWrap 0x12F0 0x0020) = 0x1210

/-- The four steps that decide a reached entry's outcome (R31). -/
def Obligations.OutcomeStepsInOrder : Prop :=
  ∀ (t : Table) (sender : Station) (prev : Option EntryOutcome) (e : Entry),
    (e.chain = true → prev = some .undetermined →
      decideOutcome t sender prev e = .undetermined)
    ∧ (e.chain = true → prev = some .failed ∨ prev = some .skipped →
      decideOutcome t sender prev e = .skipped)
    ∧ (e.chain = false ∨ prev = none ∨ prev = some .passed →
      ((∃ i, Names e i ∧ (cellAt t i).known = false) →
        decideOutcome t sender prev e = .undetermined)
      ∧ ((∀ i, Names e i → (cellAt t i).known = true) →
        (e.plain = true → decideOutcome t sender prev e = .passed)
        ∧ (e.plain = false →
          decideOutcome t sender prev e
            = if testsPass e sender (cellAt t e.cell).record then .passed else .failed)))

/-- What a reached entry writes: a PASSED entry its pass action through its mask and its owner action, a
FAILED entry its fail action with the owner unchanged, a SKIPPED entry nothing, an UNDETERMINED entry
makes its target UNKNOWN; seq rises by one and changed is set exactly when the value or the owner
changes, and no other cell is touched (R29, R30, R33, R35, R4). That owner action code 3, which no item
carries (R21), leaves the owner is the model's choice, log entry 17. -/
def Obligations.EntryEffectOnReplica : Prop :=
  ∀ (t : Table) (sender : Station) (e : Entry) (i : Byte) (c : Cell) (operand : Value),
    c = cellAt t e.cell →
    operand = (match e.source with
      | .immediate => e.operand
      | .cell => (cellAt t (e.operand.extractLsb' 0 8)).record.value) →
    let wrote : Value → Owner → Cell := fun v o =>
      if v = c.record.value ∧ o = c.record.owner then c
      else { record := { value := v, owner := o, seq := c.record.seq + 1 }, known := c.known,
             watch := c.watch, changed := true }
    (i ≠ e.cell → ∀ o, cellAt (entryEffect t sender e o) i = cellAt t i)
    ∧ cellAt (entryEffect t sender e .passed) e.cell
      = wrote
          (mergeMask (if e.plain then 0xFFFF else e.writeMask) c.record.value
            (actionResult e.passAction c.record.value operand))
          (if e.plain then c.record.owner
           else match e.ownerAction with
            | .keep => c.record.owner
            | .take => some sender
            | .drop => none
            | .illegal => c.record.owner)
    ∧ cellAt (entryEffect t sender e .failed) e.cell
      = wrote (mergeMask e.writeMask c.record.value (actionResult e.failAction c.record.value operand))
          c.record.owner
    ∧ cellAt (entryEffect t sender e .skipped) e.cell = c
    ∧ (c.known = true → cellAt (entryEffect t sender e .undetermined) e.cell
        = { record := { value := 0, owner := none, seq := 0 }, known := false, watch := c.watch,
            changed := true })
    ∧ (c.known = false → cellAt (entryEffect t sender e .undetermined) e.cell = c)

/-- A non-strict group runs on the replica entry by entry: each outcome is decided on, and each effect
written to, what the entries before it left; every entry has its record; the group is UNDETERMINED when
an entry is, else APPLIED; the watch hits are the PASSED entries' watched targets in entry order
(R35, R39, R41, R42). -/
def Obligations.NonStrictGroupRunsInOrder : Prop :=
  ∀ (g : GroupItem) (t : Table), g.strict = false →
    ∃ (ts : Nat → Table) (os : Nat → EntryOutcome),
      ts 0 = t ∧ (evaluateGroup g t).table = ts g.entries.length
      ∧ (evaluateGroup g t).records.length = g.entries.length
      ∧ (∀ k e, g.entries[k]? = some e →
          os k = decideOutcome (ts k) g.sender (if k = 0 then none else some (os (k - 1))) e
          ∧ ts (k + 1) = entryEffect (ts k) g.sender e (os k)
          ∧ (evaluateGroup g t).records[k]?
            = some
                { outcome := os k
                  oldValue := (cellAt (ts k) e.cell).record.value
                  newValue := (cellAt (ts (k + 1)) e.cell).record.value
                  oldOwner := (cellAt (ts k) e.cell).record.owner
                  newOwner := (cellAt (ts (k + 1)) e.cell).record.owner
                  newSeq := (cellAt (ts (k + 1)) e.cell).record.seq })
      ∧ ((∃ k, k < g.entries.length ∧ os k = .undetermined) →
          (evaluateGroup g t).status = .undetermined)
      ∧ ((∀ k, k < g.entries.length → os k ≠ .undetermined) →
          (evaluateGroup g t).status = .applied)
      ∧ (evaluateGroup g t).hits
        = (List.range g.entries.length).filterMap fun k =>
            match g.entries[k]? with
            | none => none
            | some e => if os k = .passed ∧ (cellAt t e.cell).watch = true then some e.cell else none

/-- A strict group runs on a working copy: each reached entry's outcome is decided on what the entries
before it left there, a PASSED entry writes to it, and the first entry that does not pass stops the group,
every later one NOT-REACHED. APPLIED, exactly when every entry passes, takes the copy's records, changes no
status and no watch flag, and sets changed on the cells whose record differs. Stopped by a FAILED entry it
is VOID and leaves the replica exactly as it was; stopped by an UNDETERMINED entry it is UNDETERMINED,
makes every target UNKNOWN and touches no other cell; neither raises a hit. The records are those of
Table 2-5 (R31, R36 to R38, R41). -/
def Obligations.StrictGroupIsAllOrNothing : Prop :=
  ∀ (g : GroupItem) (t : Table) (r : Evaluation), g.strict = true → r = evaluateGroup g t →
    ∃ (n : Nat) (ts : Nat → Table) (os : Nat → EntryOutcome),
      StrictRun g t n ts os ∧ StrictRecords g n ts os r.records
      ∧ (n = g.entries.length →
          r.status = .applied
          ∧ (∀ i, (cellAt r.table i).record = (cellAt (ts n) i).record
              ∧ (cellAt r.table i).known = (cellAt t i).known
              ∧ (cellAt r.table i).watch = (cellAt t i).watch
              ∧ ((cellAt r.table i).changed = true ↔
                  (cellAt t i).changed = true ∨ (cellAt (ts n) i).record ≠ (cellAt t i).record))
          ∧ r.hits = (g.entries.map Entry.cell).filter fun i => (cellAt t i).watch)
      ∧ (n < g.entries.length → os n = .failed ∨ os n = .undetermined)
      ∧ (n < g.entries.length → os n = .failed → r.status = .void ∧ r.table = t ∧ r.hits = [])
      ∧ (n < g.entries.length → os n = .undetermined →
          r.status = .undetermined ∧ r.hits = []
          ∧ (∀ i, i ∉ g.entries.map Entry.cell → cellAt r.table i = cellAt t i)
          ∧ (∀ i, i ∈ g.entries.map Entry.cell → (cellAt t i).known = false →
              cellAt r.table i = cellAt t i)
          ∧ (∀ i, i ∈ g.entries.map Entry.cell → (cellAt t i).known = true →
              cellAt r.table i
                = { record := { value := 0, owner := none, seq := 0 }, known := false,
                    watch := (cellAt t i).watch, changed := true }))

/-! ### Grants (R10 to R15, R97, R113, R114, R117) -/

/-- The end of a grant: the summary is brought up to date; cells that became UNKNOWN take an IN-STEP
station to CATCHING-UP, with NOT-IN-STEP latched and its answers dropped; with auto-fill on and an attached
station not quiet their chunks are wanted, and so are the needed chunks of a WAIT-FILL group, and no other
chunk is; cells that became KNOWN take the complete chunks off the request list of a CATCHING-UP station
and, with none left UNKNOWN, the station to IN-STEP, with IN-STEP latched. The NOT-IN-STEP detail is the
number of chunks that hold an UNKNOWN cell; off the line the state does not change; nothing else moves the
station. A WAIT-FILL group's needed chunks are found again, and on a report of KNOWN cells it enters QUEUED
when none remains; any other group is left as it is. The request slot's timer stops when its entry leaves the
list, the answer slot's count and timer when answers are dropped, and nothing else changes (R4, R5, R72,
R95, R97, R112, R124, R125, R152). -/
def Obligations.StatusReportMovesStation : Prop :=
  ∀ (before : Table) (s t : State) (lost gained waits : Prop), t = reportStatus before s →
    (lost ↔ ∃ i, (cellAt before i).known = true ∧ (cellAt s.table i).known = false) →
    (gained ↔ ∃ i, (cellAt before i).known = false ∧ (cellAt s.table i).known = true) →
    (waits ↔ ∃ g, s.committed = some g ∧ g.state = .waitFill) →
    t.unknownChunks = unknownSummary s.table ∧ t.table = s.table
    ∧ (lost ∨ gained → t.details.notInStep = BitVec.ofNat 8 (unknownSummary s.table).length)
    ∧ (s.station = .offline ∨ s.station = .faulted → t.station = s.station)
    ∧ (lost → s.station = .inStep →
        t.station = .catchingUp ∧ t.latches.notInStep = true ∧ t.answers = [])
    ∧ (lost → s.station = .catchingUp → t.station = .catchingUp)
    ∧ (lost → s.station ≠ .inStep → t.answers = s.answers)
    ∧ (lost → RequestsOrdered s.requests → ∃ added : List Chunk,
        WantedAdded added s.requests t.requests
        ∧ ∀ c, c ∈ added ↔
            ((s.station = .inStep ∨ s.station = .catchingUp) ∧ s.config.autoFill = true
              ∧ s.config.quiet = false
              ∧ ∃ i, chunkOfCell i = c ∧ (cellAt before i).known = true
                  ∧ (cellAt s.table i).known = false)
            ∨ ∃ g e i, s.committed = some g ∧ g.state = .waitFill ∧ e ∈ g.entries ∧ Names e i
                ∧ chunkOfCell i = c ∧ (cellAt s.table i).known = false)
    ∧ (¬ lost → gained → s.station = .catchingUp →
        (∀ r, r ∈ t.requests ↔ r ∈ s.requests ∧ r.chunk ∈ unknownSummary s.table)
        ∧ ((∀ i, (cellAt s.table i).known = true) →
            t.station = .inStep ∧ t.latches.inStep = true ∧ t.details.inStep = 0)
        ∧ ((∃ i, (cellAt s.table i).known = false) → t.station = .catchingUp))
    ∧ (¬ lost → gained → s.station ≠ .catchingUp →
        t.station = s.station ∧ t.requests = s.requests)
    ∧ (¬ lost → t.answers = s.answers)
    ∧ (lost ∨ gained → ∀ g, s.committed = some g → g.state = .waitFill →
        t.needed.Pairwise (· < ·)
        ∧ (∀ c, c ∈ t.needed ↔ ∃ e ∈ g.entries, ∃ i, Names e i ∧ chunkOfCell i = c
            ∧ (cellAt s.table i).known = false)
        ∧ (lost ∨ t.needed ≠ [] → t.committed = some g)
        ∧ (¬ lost → t.needed = [] → t.committed = some { g with state := .queued }))
    ∧ (¬ waits → t.committed = s.committed ∧ t.needed = s.needed)
    ∧ (¬ lost → ¬ gained → t = { s with unknownChunks := unknownSummary s.table })
    ∧ t = { s with
        unknownChunks := t.unknownChunks, station := t.station, requests := t.requests
        requestTimer := t.requestTimer, answers := t.answers, answerAttempts := t.answerAttempts
        answerTimer := t.answerTimer, committed := t.committed, needed := t.needed
        latches := t.latches, details := t.details, attn := t.attn }
    ∧ (∀ c, c ≠ .notInStep → c ≠ .inStep →
        causeGet t.latches c = causeGet s.latches c ∧ causeGet t.details c = causeGet s.details c)
    ∧ (¬ (lost ∧ s.station = .inStep) → t.latches.notInStep = s.latches.notInStep)
    ∧ (s.station ≠ .catchingUp ∨ t.station ≠ .inStep →
        t.latches.inStep = s.latches.inStep ∧ t.details.inStep = s.details.inStep)
    ∧ (s.attn = pinFor s.latches s.attnMask → t.attn = pinFor t.latches s.attnMask)
    ∧ (RequestTimerFits s → ∀ x, t.requestTimer = some x ↔
        s.requestTimer = some x ∧ ∃ r ∈ t.requests, r.chunk = x.chunk ∧ r.state = .wanted)
    ∧ (lost ∧ s.station = .inStep ∧ s.answers ≠ [] → t.answerAttempts = 0 ∧ t.answerTimer = none)
    ∧ (¬ (lost ∧ s.station = .inStep ∧ s.answers ≠ []) →
        t.answerAttempts = s.answerAttempts ∧ t.answerTimer = s.answerTimer)

/-- GROUP_APPLY: the head item is evaluated against the replica as it stands and removed, WATCH latches
with the last hit, then the status report, and for an own item the results are written and the group
ends with DONE, its detail 1 for APPLIED, 2 for VOID, 3 for UNDETERMINED (R10, R34, R39, R40, R127,
Table 10-8). -/
def Obligations.GroupApplyGrant : Prop :=
  ∀ (s : State) (g : GroupItem) (rest : List Item) (u : State),
    s.running = some .apply → s.items = .group g :: rest →
    u = withoutHead
      (match (evaluateGroup g s.table).hits.getLast? with
        | none => { s with table := (evaluateGroup g s.table).table }
        | some i => withCause .watch i { s with table := (evaluateGroup g s.table).table }) →
    (g.own = false → exec .groupApply s = .next (settle (reportStatus s.table u)))
    ∧ (g.own = true → ∃ v,
        v = reportStatus s.table
          { u with
            results :=
              { status := (evaluateGroup g s.table).status, attempts := s.results.attempts
                records := (evaluateGroup g s.table).records } }
        ∧ ∃ code : Byte,
          (((evaluateGroup g s.table).status = .applied ∧ code = 0x01)
            ∨ ((evaluateGroup g s.table).status = .void ∧ code = 0x02)
            ∨ ((evaluateGroup g s.table).status = .undetermined ∧ code = 0x03))
          ∧ exec .groupApply s
            = .next (settle (withCause .done code { v with applyPending := false })))

/-- FDAT_APPLY: the 16 cells of the chunk take the carried records and become KNOWN, their changed flag
set if the cell was UNKNOWN or the record differed, watch flags kept, the other chunks untouched;
divergences are the KNOWN cells whose record differed, and DIVERGE latches with the chunk when there
are any; the head is removed and the report follows (R113, R114, R10). -/
def Obligations.FdatApplyGrant : Prop :=
  ∀ (s : State) (c : Chunk) (d : ChunkData) (rest : List Item),
    s.running = some .apply → s.items = .fdat c d :: rest →
    ∃ (tb : Table) (n : Nat),
      (∀ i, chunkOfCell i ≠ c → cellAt tb i = cellAt s.table i)
      ∧ (∀ k, k < 16 → ∀ i : Byte, i.toNat = 16 * c.val + k → ∃ r, d.records[k]? = some r
          ∧ cellAt tb i
            = { record := r, known := true, watch := (cellAt s.table i).watch
                changed := (cellAt s.table i).changed || !(cellAt s.table i).known
                  || (cellAt s.table i).record != r })
      ∧ n = ((List.range 16).countP fun k =>
          match d.records[k]? with
          | none => false
          | some r =>
            (cellAt s.table (BitVec.ofNat 8 (16 * c.val + k))).known
              && (cellAt s.table (BitVec.ofNat 8 (16 * c.val + k))).record != r)
      ∧ (n = 0 → exec .fdatApply s
          = .next (settle (reportStatus s.table (withoutHead { s with table := tb }))))
      ∧ (0 < n → exec .fdatApply s
          = .next (settle (reportStatus s.table (withoutHead
              (withCause .diverge (BitVec.ofNat 8 c.val)
                { s with table := tb, lastDivergence := n })))))

/-- SEED_APPLY: every cell is 0, NONE, 0 and KNOWN, changed set where the cell was UNKNOWN or its record
was not zero, watch flags kept, no divergence counted; the head is removed and the report follows
(R117, R10). -/
def Obligations.SeedApplyGrant : Prop :=
  ∀ (s : State) (rest : List Item), s.running = some .apply → s.items = .seed :: rest →
    ∃ tb : Table,
      (∀ i, cellAt tb i
        = { record := { value := 0, owner := none, seq := 0 }, known := true
            watch := (cellAt s.table i).watch
            changed := (cellAt s.table i).changed || !(cellAt s.table i).known
              || (cellAt s.table i).record != { value := 0, owner := none, seq := 0 } })
      ∧ exec .seedApply s
        = .next (settle (reportStatus s.table (withoutHead { s with table := tb })))

/-- STEP_LOSS_CLEAR: every KNOWN cell becomes UNKNOWN with its changed mark set and its watch flag kept,
an UNKNOWN cell is left as it is, the items stay, and a clear whose count is 0 is no longer pending
(R11, R4). A clear moved behind items while this one ran stays: log entry 9. -/
def Obligations.StepLossClearGrant : Prop :=
  ∀ s : State, s.running = some .stepLossClear →
    ∃ tb : Table,
      (∀ i, cellAt tb i =
        if (cellAt s.table i).known then
          { record := { value := 0, owner := none, seq := 0 }, known := false
            watch := (cellAt s.table i).watch, changed := true }
        else cellAt s.table i)
      ∧ exec .stepLossClear s
        = .next (settle (reportStatus s.table { s with
            table := tb, running := none, runningDiscarded := false
            pendingClear := if s.pendingClear = some 0 then none else s.pendingClear }))

/-- TEARDOWN_GRANT: every KNOWN cell becomes UNKNOWN with its changed mark set, watch flags kept; the
teardown is no longer pending; a discarded own group's results are DROPPED with one NOT-REACHED record
an entry, and DONE latches; a DETACH that waited returns OK, a START that waited attaches as it would have
at once (R12, R98, R99, R101). -/
def Obligations.TeardownGrant : Prop :=
  ∀ s : State, s.running = some .teardown → s.station = .offline ∨ s.station = .faulted →
    ∃ (tb : Table) (u v : State),
      (∀ i, cellAt tb i =
        if (cellAt s.table i).known then
          { record := { value := 0, owner := none, seq := 0 }, known := false
            watch := (cellAt s.table i).watch, changed := true }
        else cellAt s.table i)
      ∧ u = reportStatus s.table { s with
          table := tb, running := none, runningDiscarded := false, teardownPending := false }
      ∧ (s.discardedOwn = none → v = u)
      ∧ (∀ n, s.discardedOwn = some n →
          v = withCause .done 0x07 { u with
            discardedOwn := none, applyPending := false
            results :=
              { status := .dropped, attempts := s.results.attempts
                records := List.replicate n ResultRecord.notReached } })
      ∧ (s.port = waitingPort .detach .detachTeardown →
          exec .teardownGrant s = .next (settle { v with port := codePort .detach .ok }))
      ∧ (s.port = waitingPort .start .startTeardown →
          exec .teardownGrant s
            = .next (settle { attached v with port := codePort .start .ok }))
      ∧ (portWaits .detachTeardown s = false → portWaits .startTeardown s = false →
          exec .teardownGrant s = .next (settle v))

/-- FDAT_PAYLOAD_READ: the grant copies the 16 records of the chunk, in cell order, into the frame's
payload and changes nothing in the replica; the records of a frame that was lost or stopped are
discarded (R14, R68). -/
def Obligations.FdatPayloadReadGrant : Prop :=
  ∀ (s : State) (c : Chunk), s.running = some (.fdatRead c) →
    (s.runningDiscarded = false → ∃ d : ChunkData,
      (∀ k, k < 16 →
        d.records[k]? = some (cellAt s.table (BitVec.ofNat 8 (16 * c.val + k))).record)
      ∧ exec .fdatPayloadRead s = .next (settle { s with running := none, fdatCopy := some d }))
    ∧ (s.runningDiscarded = true →
      exec .fdatPayloadRead s
        = .next (settle { s with running := none, runningDiscarded := false }))

/-! ### Line Access (R63 to R77) -/

/-- At a start point the first present and eligible candidate in the order seed slot, request, group,
answer drives its start mark: its frame and key are fixed, the link is CONTENDING, the frame is taken, a
group is CONTENDING, an FDAT claims its payload; with no eligible candidate, or at a quiet station,
nothing is driven. The key is class times 32 plus the station (R64, R65, R67, R68, R77). That an answer
waits for a pending step-loss clear is read from R112 and R14: log entry 19. -/
def Obligations.ContentionStartTakesFirstEligible : Prop :=
  (∀ f : TxFrame, (txKey f).toNat
      = 32 * (match f.body with
        | .seed => 0
        | .freq _ => 0
        | .upd _ => 1
        | .fdat _ => 2) + f.station.val)
  ∧ ∀ (s : State) (seed request group answer : Prop) (frame : TxBody → Bool → Bool → TxFrame),
    s.link = .listen → s.framing = .rest →
    (seed ↔ s.seedSlot = true ∧ s.seedTimer = none) →
    (request ↔ (∃ r ∈ s.requests, r.state = .wanted) ∧ s.requestTimer = none) →
    (group ↔ (∃ g, s.committed = some g ∧ g.state = .queued) ∧ s.groupTimer = none
      ∧ s.yield = false) →
    (answer ↔ s.answers ≠ [] ∧ s.answerTimer = none ∧ s.yield = false ∧ s.items = []
      ∧ s.pendingClear = none) →
    (frame = fun body last strict =>
      { station := s.config.station, inStep := decide (s.station = .inStep), last := last
        strict := strict, index := 0, body := body }) →
    (s.config.quiet = true ∨ (¬ seed ∧ ¬ request ∧ ¬ group ∧ ¬ answer) →
      exec .contentionStart s = .next (settle { s with txd := [.recessive] }))
    ∧ (s.config.quiet = false →
      (seed → exec .contentionStart s
        = .next (settle (ownStartMark .contending (frame .seed true false) s)))
      ∧ (¬ seed → request →
        ∃ r ∈ s.requests, r.state = .wanted
          ∧ (∀ q ∈ s.requests, q.state = .wanted → r.chunk ≤ q.chunk)
          ∧ exec .contentionStart s
            = .next (settle (ownStartMark .contending (frame (.freq r.chunk) true false) s)))
      ∧ (¬ seed → ¬ request → group →
        ∀ g e rest, s.committed = some g → g.entries = e :: rest →
          exec .contentionStart s
            = .next (settle (ownStartMark .contending (frame (.upd e) (decide (rest = [])) g.strict)
                { s with committed := some { g with state := .contending } })))
      ∧ (¬ seed → ¬ request → ¬ group → answer →
        ∀ c rest, s.answers = c :: rest →
          exec .contentionStart s
            = .next (settle (ownStartMark .contending (frame (.fdat c) true false)
                { s with fdatClaim := some c, fdatCopy := none }))))

/-- The key lost: RECEIVING, the frame read on as a receiver's, the candidate kept, a group back to
QUEUED, an FDAT's read withdrawn, no attempt counted and no other count changed. The key won: SENDING,
and so is the group. Either way TXD has carried the key's bits, all seven or to the one that lost it
(R47, R66, R68, R77, R160). A dominant key bit cannot lose: that the model stops there by name is its own
choice, log entry 3, and so are the operand that names the bit and the step at which the bits are kept,
log entry 10. -/
def Obligations.KeyWonOrLost : Prop :=
  ∀ (s : State) (f : TxFrame) (group : GroupState → Option CommittedGroup),
    s.link = .contending → s.txFrame = some f →
    (group = fun st => match f.body with
      | .upd _ => s.committed.map fun g => { g with state := st }
      | .seed => s.committed
      | .freq _ => s.committed
      | .fdat _ => s.committed) →
    exec .keyWon s
        = .next (settle { s with
            link := .sending, committed := group .sending
            txd := lineKey (txKey f) })
    ∧ ∀ k : Fin 7,
      ((txKey f).getLsbD (6 - k.val) = true → exec (.contentionLost k) s
        = .next (settle (withoutFdatRead { s with
            link := .receiving, txd := (lineKey (txKey f)).take (k.val + 1) ++ [.recessive]
            txFrame := none, committed := group .queued
            rxFrame := some { own := false, verdict := none } })))
      ∧ ((txKey f).getLsbD (6 - k.val) = false →
        exec (.contentionLost k) s = .fault .keyCannotLose)

/-- A counted attempt raises the candidate's count to n: within the retry limit its backoff timer runs
64·n + 4·station tb; above it the seed slot empties with DROPPED to a waiting SEED, the request entry
goes with FILL-FAIL (and a WAIT-FILL group that needs it ends FILL-FAILED), the group ends REJECTED with
DONE, the answer goes and the next becomes head. A FREQ whose entry has gone counts nothing
(R63, R72, R91, R105, R111, R115, R126, R129). -/
def Obligations.AttemptIsCountedOrExhausts : Prop :=
  ∀ (s : State) (limit : Nat) (backoff : Nat → Nat), limit = s.config.retryLimit.val →
    (backoff = fun n => 64 * n + 4 * s.config.station.val) →
    (∀ n, n = s.seedAttempts + 1 →
      (n ≤ limit → countAttempt .seed s
        = { s with seedAttempts := n, seedTimer := some (backoff n) })
      ∧ (limit < n →
        (s.port = waitingPort .seed .seedSlot → countAttempt .seed s
          = { s with
              seedAttempts := n, seedSlot := false, seedTimer := none
              port := codePort .seed .dropped })
        ∧ (portWaits .seedSlot s = false → countAttempt .seed s
          = { s with seedAttempts := n, seedSlot := false, seedTimer := none })))
    ∧ (∀ c, (∀ r ∈ s.requests, r.chunk ≠ c) → countAttempt (.freq c) s = s)
    ∧ (∀ (r : Request) (n : Nat), RequestsOrdered s.requests → RequestTimerFits s →
        r ∈ s.requests → n = r.attempts + 1 →
      (n ≤ limit → countAttempt (.freq r.chunk) s
        = { s with
            requests := s.requests.map fun x =>
              if x.chunk = r.chunk then { r with attempts := n } else x
            requestTimer := some { chunk := r.chunk, tb := backoff n } })
      ∧ (limit < n → ∀ u : State,
        u = withCause .fillFail (BitVec.ofNat 8 r.chunk.val)
          { s with
            requests := s.requests.filter fun x => x.chunk != r.chunk
            requestTimer := s.requestTimer.filter fun t => t.chunk != r.chunk } →
        ((∃ g, s.committed = some g ∧ g.state = .waitFill) ∧ r.chunk ∈ s.needed →
          countAttempt (.freq r.chunk) s
            = withCause .done 0x06 { u with
                committed := none, groupTimer := none, needed := []
                results := { s.results with status := .fillFailed } })
        ∧ (¬ ((∃ g, s.committed = some g ∧ g.state = .waitFill) ∧ r.chunk ∈ s.needed) →
          countAttempt (.freq r.chunk) s = u)))
    ∧ (∀ (e : Entry) (g : CommittedGroup) (n : Nat), s.committed = some g →
        n = s.groupAttempts + 1 →
      (n ≤ limit → countAttempt (.upd e) s
        = { s with
            groupAttempts := n, results := { s.results with attempts := n }
            committed := some { g with state := .backoff }, groupTimer := some (backoff n) })
      ∧ (limit < n → countAttempt (.upd e) s
        = withCause .done 0x04 { s with
            groupAttempts := n, committed := none, groupTimer := none, needed := []
            results := { s.results with status := .rejected, attempts := n } }))
    ∧ ∀ (c : Chunk) (rest : List Chunk) (n : Nat), s.answers = c :: rest → c ∉ rest →
        n = s.answerAttempts + 1 →
      (n ≤ limit → countAttempt (.fdat c) s
        = { s with answerAttempts := n, answerTimer := some (backoff n) })
      ∧ (limit < n → ∃ k, countAttempt (.fdat c) s
          = { s with answers := rest, answerAttempts := k, answerTimer := none }
        ∧ (rest ≠ [] → k = 0))

/-- A transmit mismatch stops the frame: it is abandoned, the mismatch count rises by one, and below 4
an attempt is counted against the candidate, a waiting FDAT read withdrawn; the fourth in a row takes
the station off the line as FAULTED, with FAULT latched and detail 4, no attempt counted, and the
teardown of Table 6-3. TXD has carried the frame to the mismatched bit, and nothing from the next (R46,
R73, R74, R100, R101, R12, R160). The model's own: which bits can mismatch where, with the operand that
names the bit, a bit past the turnaround being the VETO slot of a sender that was BUSY there, whose frame had
already returned the count to 0 (log entries 3, 7 and 14), and the step at which the levels are kept (log
entry 10). -/
def Obligations.TransmitMismatchStopsFrame : Prop :=
  ∀ (s : State) (f : TxFrame) (bit : MismatchBit) (n behind : Nat) (levels bits : List Level),
    s.txFrame = some f → bits = ownLine f s.fdatCopy →
    behind = (if s.link = .sending ∧ f.index = 0 then 8 else 1) →
    ((∃ k level, bit = .frame k ∧ n = s.mismatch + 1 ∧ bits[k]? = some level
        ∧ ((s.link = .contending ∧ k ≤ 7 ∧ level = .dominant)
          ∨ (s.link = .sending ∧ (f.index = 0 → 8 ≤ k)))
        ∧ levels = (if k = 0 then [.dominant] else (bits.take (k + 1)).drop behind))
      ∨ ∃ ended, bit = .vetoSlot ended ∧ n = 1 ∧ s.link = .sending ∧ 2 ≤ turnaroundItems ended s
        ∧ ((∃ e, f.body = .upd e ∧ f.last = true)
          ∨ (∃ c, f.body = .fdat c ∧ s.fdatCopy.isSome = true) ∨ f.body = .seed)
        ∧ levels = bits.drop behind ++ lineWindow .veto) →
    (n < 4 → exec (.transmitMismatch bit) s
      = .next (settle { countAttempt f.body (withoutFdatRead (abandoned { s with mismatch := n })) with
          txd := levels ++ [.recessive] }))
    ∧ (4 ≤ n → ∃ t, exec (.transmitMismatch bit) s = .next (settle t)
        ∧ t.station = .faulted ∧ t.mismatch = 4 ∧ LeftLine s t ∧ t.txd = levels ++ [.recessive]
        ∧ t.latches.fault = true ∧ t.details.fault = 4
        ∧ t.seedAttempts = 0 ∧ t.groupAttempts = 0 ∧ t.answerAttempts = 0
        ∧ (portWaits .seedSlot s = false → t.port = s.port)
        ∧ (s.port = waitingPort .seed .seedSlot → t.port = codePort .seed .dropped))

/-- In HOLDING, at the hold gap, the next group frame's start mark is driven without contention: the
next entry in index order, last on the final one, the flag of COMMIT, the in-step flag of that moment.
A dominant bit before it is taken as a start mark, and an attempt is counted against the group
(R67, R70). -/
def Obligations.HoldSendsNextFrameOrIsBroken : Prop :=
  ∀ (s : State) (f : TxFrame) (g : CommittedGroup) (e : Entry) (k : Nat),
    s.link = .holding → s.framing = .gap false → s.txFrame = some f → s.committed = some g →
    k = f.index.toNat + 1 →
    (g.entries[k]? = some e →
      exec .holdGap s
        = .next (settle (ownStartMark .sending
            { station := s.config.station, inStep := decide (s.station = .inStep)
              last := decide (k + 1 = g.entries.length), strict := g.strict
              index := BitVec.ofNat 3 k, body := .upd e } s)))
    ∧ exec .holdIntrusion s
        = .next (settle (countAttempt (.upd e) (foreignStartMark { s with txFrame := none })))

/-! ### Framing and the line's intervals (R51 to R56, R71, R83, R93) -/

/-- The framing events of Table 3-7 at a station whose link is LISTEN or RECEIVING: which start marks
are taken, the hold limit, the rest interval, 12 and 23 tb of recessive, truncation, and the broken
take, with the open group's discard and the end of yield, TXD recessive throughout (R52, R56, R71, R83,
R93, R160). The model's own readings: a row presented in another framing state stops by name (log entry 3);
the recessive count of SEARCH is its value at the last event that fixed it (log entry 4); a row for a
longer interval includes the shorter ones, so that FRAME_TAKEN and REST_REACHED in SEARCH report line idle
and REST_REACHED, LINE_IDLE and START_MARK_NOT_TAKEN in GAP discard the open group (log entry 5); and
START_MARK_NOT_TAKEN within 12 tb of abandoning a frame is a step loss (log entry 8). -/
def Obligations.FramingFollowsTable : Prop :=
  (∀ s : State, s.link = .listen →
    (s.framing = .rest ∨ s.framing = .gap false → exec .frameTaken s
      = .next (settle (foreignStartMark s)))
    ∧ (∀ n, s.framing = .search n → exec .frameTaken s
      = .next (settle (foreignStartMark { s with yield := false, takeAbandoned := false })))
    ∧ (s.framing = .gap true → exec .frameTaken s = .fault .framingState)
    ∧ (∀ late, s.framing = .gap late →
      exec .startMarkNotTaken s
        = .next (settle { s with txd := [.recessive], framing := .search 0, groupBuffer := none })
      ∧ exec .holdLimitExpired s
        = .next (settle { s with txd := [.recessive], framing := .gap true, groupBuffer := none })
      ∧ exec .restReached s
        = .next (settle { s with txd := [.recessive], framing := .rest, groupBuffer := none })
      ∧ exec .lineIdle s
        = .next (settle { s with
            txd := [.recessive], framing := .rest, groupBuffer := none, yield := false
            takeAbandoned := false }))
    ∧ (s.framing = .rest →
      exec .lineIdle s
        = .next (settle { s with txd := [.recessive], yield := false, takeAbandoned := false }))
    ∧ (∀ n, s.framing = .search n →
      (n < 12 → s.takeAbandoned = false →
        exec .startMarkNotTaken s
          = .next (settle { s with txd := [.recessive], framing := .search 0 }))
      ∧ (n < 12 → s.takeAbandoned = true →
        exec .startMarkNotTaken s
          = .next (settle { stepLost s with
              txd := [.recessive], framing := .search 0, takeAbandoned := false }))
      ∧ exec .lineIdle s
        = .next (settle { s with
            txd := [.recessive], framing := .search (max n 12), yield := false
            takeAbandoned := false })
      ∧ exec .restReached s
        = .next (settle { s with
            txd := [.recessive], framing := .rest, yield := false, takeAbandoned := false })))
  ∧ (∀ (s : State) (n : Nat), s.framing = .search n → s.takeAbandoned = true →
      exec .brokenTake s
        = .next (settle { stepLost s with
            txd := [.recessive], framing := .search 0, takeAbandoned := false }))
  ∧ ∀ s : State, s.link = .receiving → s.framing = .taking →
      exec .truncation s = .next (settle { abandoned s with groupBuffer := none })

/-! ### The acknowledge window (R78 to R92) -/

/-- A receiver that is not quiet: FAULTY, or SOUND and completing with 2 items listed in the turnaround,
even if an apply grant has ended since, drives VETO on TXD and the frame is rejected; otherwise it drives
ACCEPT, and the frame is rejected when the VETO slot reads dominant, else accepted: an entry held, an item
appended, or a FREQ, FDAT or SEED reported. A rejected window discards the open group (R78 to R85). The
model's own: the operands, and the stop by name when RXD does not show the slot this station drove, which
R80 excludes (log entries 3 and 6); decision and outcome in one step, with the grants ended between them as
an operand (log entry 7); the verdict and the decision kept after the window (log entry 15). -/
def Obligations.ReceiverAnswersAndActs : Prop :=
  ∀ (s : State) (r : RawFrame) (slots : SlotsRead) (ended : Nat), s.framing = .taking →
    s.link = .receiving →
    r.payload.length = payloadLength (kindOfH1 r.h1) → s.config.quiet = false →
    (judgeFrame s.groupBuffer r = .faulty →
      (slots.veto = true → exec (.windowOutcome r slots ended) s
        = .next (settle { windowEnded false .faulty .veto s with groupBuffer := none }))
      ∧ (slots.veto = false → exec (.windowOutcome r slots ended) s = .fault .slotNotRead))
    ∧ ∀ f, judgeFrame s.groupBuffer r = .sound f →
      ((2 ≤ turnaroundItems ended s ∧ completesItem f = true) →
        (slots.veto = true → exec (.windowOutcome r slots ended) s
          = .next (settle { windowEnded false (.sound f) .veto s with groupBuffer := none }))
        ∧ (slots.veto = false → exec (.windowOutcome r slots ended) s = .fault .slotNotRead))
      ∧ (¬ (2 ≤ turnaroundItems ended s ∧ completesItem f = true) → ∀ u : State,
        u = windowEnded false (.sound f) .accept s →
        (slots.veto = true → exec (.windowOutcome r slots ended) s
          = .next (settle { u with groupBuffer := none }))
        ∧ (slots.veto = false → slots.accept = false →
          exec (.windowOutcome r slots ended) s = .fault .slotNotRead)
        ∧ (slots.veto = false → slots.accept = true →
          (∀ c, f.body = .freq c →
            exec (.windowOutcome r slots ended) s = .next (settle (acceptFreq c u)))
          ∧ (∀ c d, f.body = .fdat c d →
            exec (.windowOutcome r slots ended) s
              = .next (settle (acceptFdat c { u with items := s.items ++ [.fdat c d] })))
          ∧ (f.body = .seed →
            exec (.windowOutcome r slots ended) s
              = .next (settle (acceptSeed { u with items := s.items ++ [.seed] })))
          ∧ (∀ e, f.body = .upd e → f.last = false →
            exec (.windowOutcome r slots ended) s
              = .next (settle { u with
                  groupBuffer :=
                    some
                      { key := 1#2 ++ BitVec.ofNat 5 f.sender.val, strict := f.strict
                        entries := heldEntries s.groupBuffer ++ [e] } }))
          ∧ (∀ e, f.body = .upd e → f.last = true →
            exec (.windowOutcome r slots ended) s
              = .next (settle { u with
                  groupBuffer := none, items := s.items ++ [groupItem s f e] }))))

/-- A quiet receiver drives neither slot and reads the window: rejected discards the open group;
accepted with a FAULTY verdict, or with a completing frame and 2 items listed, is a step loss;
otherwise an accepted frame acts as at any receiver; unheard is a step loss for a FAULTY or completing
frame, holds the entry of a UPD with last flag 0, and is nothing for a FREQ (R78, R80, R86, R92). Its room
test is made on the list as it stands at the end of the VETO slot. The operands are the model's own, log
entries 6 and 7, and so is that the verdict is kept after the window, log entry 15. -/
def Obligations.QuietReceiverReadsWindow : Prop :=
  ∀ (s : State) (r : RawFrame) (slots : SlotsRead) (ended : Nat) (u : State) (v : Verdict),
    s.framing = .taking → s.link = .receiving →
    r.payload.length = payloadLength (kindOfH1 r.h1) → s.config.quiet = true →
    v = judgeFrame s.groupBuffer r → u = windowEnded false v .neither s →
    (slots.veto = true → exec (.windowOutcome r slots ended) s
      = .next (settle { u with groupBuffer := none }))
    ∧ (slots.veto = false →
      (v = .faulty → exec (.windowOutcome r slots ended) s = .next (settle (stepLost u)))
      ∧ ∀ f, v = .sound f →
        (completesItem f = true → slots.accept = false ∨ 2 ≤ s.items.length →
          exec (.windowOutcome r slots ended) s = .next (settle (stepLost u)))
        ∧ (∀ e, f.body = .upd e → f.last = false →
          exec (.windowOutcome r slots ended) s
            = .next (settle { u with
                groupBuffer :=
                  some
                    { key := 1#2 ++ BitVec.ofNat 5 f.sender.val, strict := f.strict
                      entries := heldEntries s.groupBuffer ++ [e] } }))
        ∧ (∀ c, f.body = .freq c →
          exec (.windowOutcome r slots ended) s
            = .next (settle (if slots.accept then acceptFreq c u else u)))
        ∧ (slots.accept = true → s.items.length < 2 →
          (∀ c d, f.body = .fdat c d →
            exec (.windowOutcome r slots ended) s
              = .next (settle (acceptFdat c { u with items := s.items ++ [.fdat c d] })))
          ∧ (f.body = .seed →
            exec (.windowOutcome r slots ended) s
              = .next (settle (acceptSeed { u with items := s.items ++ [.seed] })))
          ∧ (∀ e, f.body = .upd e → f.last = true →
            exec (.windowOutcome r slots ended) s
              = .next (settle { u with
                  groupBuffer := none, items := s.items ++ [groupItem s f e] }))))

/-- The sender's own window: it vetoes its own completing frame when 2 items are listed in the turnaround,
even if an apply grant has ended since; the mismatch count returns to 0; an FDAT or a UPD with last flag 1
sets yield; a frame rejected, or unheard without solo, counts an attempt; else it is accepted: a group
frame that is not last is held on, the last one appends the own group's item and takes the group from the
Commit Unit, an FDAT or SEED is appended and reported, a FREQ reported. TXD has carried the key of a held
frame, every byte from H1 to the check, and the window's three bits (R46, R47, R69, R71, R74, R79, R87 to
R89, R160). The model's own: the operands, and the stop by name when a VETO this station drove is not read,
which is R73's mismatch and no window (log entries 3 and 6); decision and outcome in one step, with the
grants ended between them as an operand (log entry 7); what of TXD a step keeps (log entry 10); the receive
record kept after the window (log entry 15). -/
def Obligations.SenderReadsOwnWindow : Prop :=
  ∀ (s : State) (tx : TxFrame) (f : Frame) (r : RawFrame) (slots : SlotsRead) (ended : Nat)
      (busy : Bool) (slot : SlotChoice) (u : State),
    s.framing = .taking → s.link = .sending → s.txFrame = some tx → s.config.quiet = false →
    txContents tx s.fdatCopy = some f →
    (busy = true ↔ completesItem f = true ∧ 2 ≤ turnaroundItems ended s) →
    slot = (if busy then .veto else .neither) →
    (u = { windowEnded true (.sound f) slot s with
        txd := (if f.index = 0 then [] else lineKey (rawFrame f).key)
          ++ lineBytes ([(rawFrame f).h1, (rawFrame f).h2] ++ (rawFrame f).payload
            ++ [(rawFrame f).checkHigh, (rawFrame f).checkLow])
          ++ lineWindow slot
        txFrame := none, fdatCopy := none, mismatch := 0
        yield := s.yield || match f.body with
          | .seed => false
          | .freq _ => false
          | .fdat _ _ => true
          | .upd _ => f.last
        groupBuffer := if slots.veto then none else s.groupBuffer }) →
    (f.sender = tx.station ∧ f.inStep = tx.inStep ∧ f.last = tx.last ∧ f.strict = tx.strict
      ∧ f.index = tx.index
      ∧ (tx.body = .seed → f.body = .seed) ∧ (∀ c, tx.body = .freq c → f.body = .freq c)
      ∧ (∀ e, tx.body = .upd e → f.body = .upd e)
      ∧ ∀ c, tx.body = .fdat c → ∃ d, s.fdatCopy = some d ∧ f.body = .fdat c d)
    ∧ (busy = true → slots.veto = false → exec (.windowOutcome r slots ended) s = .fault .slotNotRead)
    ∧ (slots.veto = true ∨ (busy = false ∧ slots.accept = false ∧ s.config.solo = false) →
      exec (.windowOutcome r slots ended) s = .next (settle (countAttempt tx.body u)))
    ∧ (slots.veto = false → busy = false → slots.accept = true ∨ s.config.solo = true →
      (∀ e, tx.body = .upd e → tx.last = false →
        exec (.windowOutcome r slots ended) s
          = .next (settle { u with link := .holding, txFrame := some tx }))
      ∧ (∀ e g, tx.body = .upd e → tx.last = true → s.committed = some g →
        exec (.windowOutcome r slots ended) s
          = .next (settle { u with
              committed := none, groupTimer := none, applyPending := true
              items := s.items
                ++ [.group
                  { sender := tx.station, strict := g.strict, entries := g.entries
                    own := true }] }))
      ∧ (∀ c, tx.body = .freq c →
        exec (.windowOutcome r slots ended) s = .next (settle (acceptFreq c u)))
      ∧ (∀ c d, tx.body = .fdat c → s.fdatCopy = some d →
        exec (.windowOutcome r slots ended) s
          = .next (settle (acceptFdat c { u with items := s.items ++ [.fdat c d] })))
      ∧ (tx.body = .seed →
        exec (.windowOutcome r slots ended) s
          = .next (settle (acceptSeed { u with items := s.items ++ [.seed] }))))

/-- What the Catch-up Unit does at an acceptance. FREQ for c: a WANTED entry for c turns ASKED with its
fill timer started, its backoff timer stops, an ASKED one is left; an IN-STEP station that is not quiet
adds c to its answers if it is absent. FDAT for c: the entry and the answer for c go. SEED: requests,
answers and the seed slot empty, and a waiting SEED returns OK. A new answer head has count 0
(R105, R106, R108, R109 to R111, R116). A FREQ's answer is added whatever clear is
pending, and waits for it (R112, log entry 19). -/
def Obligations.AcceptedFramesAreReported : Prop :=
  ∀ s : State, RequestsOrdered s.requests → RequestTimerFits s → s.answers.Nodup →
    (∀ (c : Chunk) (u : State),
      u = { s with
        requests := s.requests.map fun r =>
          if r.chunk = c ∧ r.state = .wanted then
            { r with state := .asked, fillTimer := some s.config.fillTimeout.toNat }
          else r
        requestTimer := s.requestTimer.filter fun t => t.chunk != c } →
      (s.station ≠ .inStep ∨ s.config.quiet = true ∨ c ∈ s.answers → acceptFreq c s = u)
      ∧ (s.station = .inStep → s.config.quiet = false → c ∉ s.answers →
        (s.answers = [] → acceptFreq c s
          = { u with answers := [c], answerAttempts := 0, answerTimer := none })
        ∧ (s.answers ≠ [] → acceptFreq c s = { u with answers := s.answers ++ [c] })))
    ∧ (∀ (c : Chunk) (u : State),
      u = { s with
        requests := s.requests.filter fun r => r.chunk != c
        requestTimer := s.requestTimer.filter fun t => t.chunk != c
        answers := s.answers.filter fun d => d != c } →
      (s.answers.head? ≠ some c → acceptFdat c s = u)
      ∧ (s.answers.head? = some c →
        acceptFdat c s = { u with answerAttempts := 0, answerTimer := none }))
    ∧ ∃ (n : Nat) (u : State),
      u = { s with
        requests := [], requestTimer := none, answers := [], answerAttempts := n
        answerTimer := if s.answers = [] then s.answerTimer else none,
        seedSlot := false, seedTimer := none }
      ∧ (portWaits .seedSlot s = false → acceptSeed s = u)
      ∧ (s.port = waitingPort .seed .seedSlot →
        acceptSeed s = { u with port := codePort .seed .ok })

/-! ### Frames (R48 to R50, R54 to R59) -/

/-- A frame read to its window is FAULTY exactly when it has a format error, from the frame alone or
against the open group, or a check error; a SOUND verdict carries the contents read. The nine bytes 0x31
to 0x39 leave the check register at 0x29B1 (R50, R54, R57, R58, R59). -/
def Obligations.FrameIsJudgedByItsDefects : Prop :=
  crc [0x31, 0x32, 0x33, 0x34, 0x35, 0x36, 0x37, 0x38, 0x39] = 0x29B1
  ∧ ∀ (g : Option OpenGroup) (r : RawFrame),
    r.payload.length = payloadLength (kindOfH1 r.h1) →
    (judgeFrame g r = .faulty ↔ Defective g r)
    ∧ (¬ Defective g r → ∃ f : Frame, judgeFrame g r = .sound f
      ∧ f.sender.val = (r.key.extractLsb' 0 5).toNat ∧ f.inStep = r.h1.getLsbD 5
      ∧ f.last = r.h1.getLsbD 4 ∧ f.strict = r.h1.getLsbD 3 ∧ f.index = r.h1.extractLsb' 0 3
      ∧ (kindOfH1 r.h1 = .seed → f.body = .seed)
      ∧ (kindOfH1 r.h1 = .freq →
        ∃ c : Chunk, c.val = (r.payload.getD 0 0).toNat ∧ f.body = .freq c)
      ∧ (kindOfH1 r.h1 = .upd → f.body = .upd (entryOfBytes r.payload))
      ∧ (kindOfH1 r.h1 = .fdat → ∃ (c : Chunk) (d : ChunkData),
        c.val = (r.payload.getD 0 0).toNat ∧ f.body = .fdat c d
        ∧ ∀ k, k < 16 → ∃ x, d.records[k]? = some x
          ∧ x.value = joinBytes (r.payload.getD (4 * k + 1) 0) (r.payload.getD (4 * k + 2) 0)
          ∧ ownerByte x.owner = r.payload.getD (4 * k + 3) 0
          ∧ x.seq = r.payload.getD (4 * k + 4) 0))

/-- The fourteen bytes of any entry, unused bits included, spell that entry again; and any frame that
may be sent, read back from the bytes its sender builds, has its kind's payload length and is judged
SOUND with the same contents wherever it meets the open group's expectation. The fields and codes of an
entry lie where Table 10-6 has them, those of a frame where Tables 10-1 to 10-3 and 10-5 have them; kinds,
classes and payload lengths are those of Table 3-3 (R46 to R50, R57 to R59, R159). -/
def Obligations.EntryAndFrameBytesRoundTrip : Prop :=
  (∀ e : Entry, (entryBytes e).length = 14 ∧ entryOfBytes (entryBytes e) = e)
  ∧ (∀ e : Entry, ∃ b1 b2 b3 : Byte,
    entryBytes e = [e.cell, b1, b2, b3, e.reference.extractLsb' 8 8, e.reference.extractLsb' 0 8,
        e.operand.extractLsb' 8 8, e.operand.extractLsb' 0 8]
      ++ [e.writeMask.extractLsb' 8 8, e.writeMask.extractLsb' 0 8, e.matchMask.extractLsb' 8 8,
        e.matchMask.extractLsb' 0 8, e.magnitudeMask.extractLsb' 8 8,
        e.magnitudeMask.extractLsb' 0 8]
    ∧ b1.getLsbD 0 = e.plain ∧ b1.getLsbD 1 = e.chain
    ∧ b1.extractLsb' 2 1 = (match e.source with
        | .immediate => 0
        | .cell => 1)
    ∧ b1.extractLsb' 3 2 = (match e.ownerTest with
        | .any => 0
        | .free => 1
        | .mine => 2
        | .freeOrMine => 3)
    ∧ b1.extractLsb' 5 2 = (match e.ownerAction with
        | .keep => 0
        | .take => 1
        | .drop => 2
        | .illegal => 3)
    ∧ b1.extractLsb' 7 1 = e.unused1
    ∧ b2.extractLsb' 0 2 = (match e.matchFn with
        | .any => 0
        | .never => 1
        | .same => 2
        | .different => 3)
    ∧ b2.extractLsb' 2 3 = (match e.magnitudeFn with
        | .any => 0
        | .gt => 1
        | .eq => 2
        | .ge => 3
        | .never => 4
        | .le => 5
        | .ne => 6
        | .lt => 7)
    ∧ b2.extractLsb' 5 3 = e.unused2
    ∧ ∃ code : ValueAction → BitVec 3,
      code .keep = 0 ∧ code .zero = 1 ∧ code .set = 2 ∧ code .invert = 3 ∧ code .addSat = 4
      ∧ code .subSat = 5 ∧ code .addWrap = 6 ∧ code .subWrap = 7
      ∧ b3.extractLsb' 0 3 = code e.passAction ∧ b3.extractLsb' 3 3 = code e.failAction
      ∧ b3.extractLsb' 6 2 = e.unused3)
  ∧ (∀ h : Byte, kindOfH1 h = (match h.extractLsb' 6 2 with
      | 0#2 => .seed
      | 1#2 => .freq
      | 2#2 => .fdat
      | _ => .upd))
  ∧ (kindClass .seed = 0 ∧ kindClass .freq = 0 ∧ kindClass .upd = 1 ∧ kindClass .fdat = 2)
  ∧ (payloadLength .seed = 0 ∧ payloadLength .freq = 1 ∧ payloadLength .upd = 14
      ∧ payloadLength .fdat = 65)
  ∧ (∀ (f : Frame) (class_ kind : BitVec 2) (length : Byte),
    (class_, kind, length) = (match f.body with
      | .seed => (0, 0, 0x00)
      | .freq _ => (0, 1, 0x01)
      | .upd _ => (1, 3, 0x0E)
      | .fdat _ _ => (2, 2, 0x41)) →
    (rawFrame f).key.extractLsb' 5 2 = class_
    ∧ ((rawFrame f).key.extractLsb' 0 5).toNat = f.sender.val
    ∧ (rawFrame f).h1.extractLsb' 6 2 = kind ∧ (rawFrame f).h1.getLsbD 5 = f.inStep
    ∧ (rawFrame f).h1.getLsbD 4 = f.last ∧ (rawFrame f).h1.getLsbD 3 = f.strict
    ∧ (rawFrame f).h1.extractLsb' 0 3 = f.index ∧ (rawFrame f).h2 = length
    ∧ (f.body = .seed → (rawFrame f).payload = [])
    ∧ (∀ c, f.body = .freq c → (rawFrame f).payload = [BitVec.ofNat 8 c.val])
    ∧ (∀ e, f.body = .upd e → (rawFrame f).payload = entryBytes e)
    ∧ (∀ c d, f.body = .fdat c d →
      (rawFrame f).payload.getD 0 0 = BitVec.ofNat 8 c.val
      ∧ ∀ k x, d.records[k]? = some x →
        (rawFrame f).payload.getD (4 * k + 1) 0 = x.value.extractLsb' 8 8
        ∧ (rawFrame f).payload.getD (4 * k + 2) 0 = x.value.extractLsb' 0 8
        ∧ (rawFrame f).payload.getD (4 * k + 3) 0 = ownerByte x.owner
        ∧ (rawFrame f).payload.getD (4 * k + 4) 0 = x.seq)
    ∧ (rawFrame f).checkHigh ++ (rawFrame f).checkLow
      = crc ((0#1 ++ (rawFrame f).key) :: (rawFrame f).h1 :: (rawFrame f).h2 :: (rawFrame f).payload))
  ∧ (ownerByte none = 0xFF ∧ ∀ n : Station, ownerByte (some n) = BitVec.ofNat 8 n.val)
  ∧ (∀ (f : TxFrame) (copy : Option ChunkData) (c : Frame), txContents f copy = some c →
      txHeader f = [(rawFrame c).h1, (rawFrame c).h2] ∧ txKey f = (rawFrame c).key)
  ∧ ∀ (g : Option OpenGroup) (f : Frame), Sendable f →
    (g = none → f.index = 0) →
    (∀ o, g = some o → (∃ e, f.body = .upd e) ∧ f.index.toNat = o.entries.length
      ∧ o.key = 1#2 ++ BitVec.ofNat 5 f.sender.val ∧ f.strict = o.strict) →
    (rawFrame f).payload.length = payloadLength (kindOfH1 (rawFrame f).h1)
    ∧ judgeFrame g (rawFrame f) = .sound f

/-! ### What every step keeps -/

/-- At reset every invariant below holds. -/
def Obligations.InvariantsHoldAtReset : Prop :=
  AttnFollowsLatches State.reset ∧ ArbiterSettled State.reset ∧ CountsBounded State.reset
    ∧ UnknownCellsZero State.reset ∧ StationFollowsCells State.reset ∧ LinkCoherent State.reset
    ∧ ApplyListBounded State.reset ∧ RequestListFits State.reset ∧ AnswerListFits State.reset
    ∧ FdatReadFits State.reset ∧ SlotsNeedAttachment State.reset ∧ GroupsFit State.reset
    ∧ HeldEntriesFit State.reset ∧ ResultsFit State.reset ∧ GroupFollowsLink State.reset

/-- The table port arbiter, in every state: a running grant is never replaced; a free port goes to the
teardown, else to a step-loss clear whose count is 0, else to the head item, else to the FDAT payload read,
else to the port's access, the granted claim of the last two leaving those that wait; with none waiting it
stays free (R11, R12, R13, Table 1-4). Every step keeps the arbiter settled, the pin in agreement with the
latches and the mask (R153), and the port FIFO and the mismatch count within their bounds (R136, R74). -/
def Obligations.StepKeepsPinArbiterAndCounts : Prop :=
  (∀ s : State,
    (∀ g, s.running = some g → settle s = s)
    ∧ (s.running = none →
      (s.teardownPending = true → settle s = granted .teardown s)
      ∧ (s.teardownPending = false →
        (s.pendingClear = some 0 → settle s = granted .stepLossClear s)
        ∧ (s.pendingClear ≠ some 0 →
          (s.items ≠ [] → settle s = granted .apply s)
          ∧ (s.items = [] →
            (∀ c, s.fdatClaim = some c →
              settle s = granted (.fdatRead c) { s with fdatClaim := none })
            ∧ (s.fdatClaim = none →
              (∀ p, s.portClaim = some p →
                settle s = granted (.port p) { s with portClaim := none })
              ∧ (s.portClaim = none → settle s = s)))))))
  ∧ ∀ s t : State, step s = .next t →
    (AttnFollowsLatches s → AttnFollowsLatches t)
    ∧ (ArbiterSettled s → ArbiterSettled t)
    ∧ (CountsBounded s → CountsBounded t)

/-- Every step keeps the replica, the station state, the link and the apply list coherent: an UNKNOWN
cell is zero; IN-STEP has every cell KNOWN and CATCHING-UP one UNKNOWN; a station off the line has no
KNOWN cell once its teardown has ended; link, framing and own frame agree, and TXD is recessive off the
line and never dominant at an attached quiet station; the apply list holds at most 2 items and does not grow while a frame is being
taken, and a pending clear counts no more items than are listed; while an FDAT's payload read is due every
cell is KNOWN, no item is listed and no clear is pending (R2, R8, R11, R12, R14, R52, R62, R64, R79, R95,
R160). That no FDAT starts while a clear is pending is read from the rules: log entry 19. -/
def Obligations.StepKeepsReplicaStationAndLink : Prop :=
  ∀ s t : State, UnknownCellsZero s → StationFollowsCells s → LinkCoherent s →
    ApplyListBounded s → AnswerListFits s → FdatReadFits s → step s = .next t →
    UnknownCellsZero t ∧ StationFollowsCells t ∧ LinkCoherent t ∧ ApplyListBounded t
      ∧ FdatReadFits t

/-- Every step keeps the request list (one entry a chunk, in order, each with an UNKNOWN cell, a count
within the limit, a timer exactly in ASKED, none outside CATCHING-UP) and the answer list (each chunk
once, none outside IN-STEP) (R72, R102, R105, R109). -/
def Obligations.StepKeepsRequestAndAnswerLists : Prop :=
  ∀ s t : State, StationFollowsCells s → LinkCoherent s → SlotsNeedAttachment s →
    RequestListFits s → AnswerListFits s → step s = .next t →
    RequestListFits t ∧ AnswerListFits t

/-- Every step keeps the Commit Unit's bounds: legal entries, at most 8 staged and 1 to 8 committed,
no group beside one that is apply-pending, the needed chunks of a WAIT-FILL group; a committed group or a
full seed slot only at an attached station that is not quiet; 1 to 7 entries held in the open group and 1
to 8 in a listed group item, each legal at its index; the results list PENDING exactly while a
group is committed or apply-pending, with one NOT-REACHED record per entry and at most 16 attempts, and an
apply-pending group in the apply list or waiting for the teardown grant; and the group's state follows the
link (R9, R12, R21, R64, R77, R81, R91, R115, R119, R122, R125, R127, R132). -/
def Obligations.StepKeepsCommittedGroup : Prop :=
  ∀ s t : State, StationFollowsCells s → LinkCoherent s → SlotsNeedAttachment s → GroupsFit s →
    HeldEntriesFit s → ResultsFit s → GroupFollowsLink s → step s = .next t →
    SlotsNeedAttachment t ∧ GroupsFit t ∧ HeldEntriesFit t ∧ ResultsFit t ∧ GroupFollowsLink t
end

