-- ==== Sys2Proof/Laws/State.lean ====
section
/-!
SUPPORT. Laws/State.lean: the value of each field after each named update of State, by rfl. Each
lemma is a conjunction, one equation per field, and simp uses each of them by itself.
-/
namespace Sys2Proof.Machine

/-- Every field after `latchCause`. -/
@[simp] theorem latchCause_fields (c : Cause) (d : Byte) (s : State) :
    (latchCause c d s).pending = s.pending ∧ (latchCause c d s).resetAsserted = s.resetAsserted ∧
    (latchCause c d s).powerHold = s.powerHold ∧ (latchCause c d s).txd = s.txd ∧
    (latchCause c d s).dataOut = s.dataOut ∧ (latchCause c d s).config = s.config ∧
    (latchCause c d s).lock = s.lock ∧ (latchCause c d s).port = s.port ∧
    (latchCause c d s).table = s.table ∧ (latchCause c d s).unknownChunks = s.unknownChunks ∧
    (latchCause c d s).items = s.items ∧
    (latchCause c d s).appliedSinceMark = s.appliedSinceMark ∧
    (latchCause c d s).pendingClear = s.pendingClear ∧
    (latchCause c d s).lastDivergence = s.lastDivergence ∧
    (latchCause c d s).discardedOwn = s.discardedOwn ∧ (latchCause c d s).running = s.running ∧
    (latchCause c d s).runningDiscarded = s.runningDiscarded ∧
    (latchCause c d s).fdatClaim = s.fdatClaim ∧ (latchCause c d s).portClaim = s.portClaim ∧
    (latchCause c d s).staging = s.staging ∧ (latchCause c d s).committed = s.committed ∧
    (latchCause c d s).applyPending = s.applyPending ∧ (latchCause c d s).results = s.results ∧
    (latchCause c d s).needed = s.needed ∧ (latchCause c d s).link = s.link ∧
    (latchCause c d s).txFrame = s.txFrame ∧ (latchCause c d s).fdatCopy = s.fdatCopy ∧
    (latchCause c d s).seedAttempts = s.seedAttempts ∧
    (latchCause c d s).groupAttempts = s.groupAttempts ∧
    (latchCause c d s).answerAttempts = s.answerAttempts ∧
    (latchCause c d s).seedTimer = s.seedTimer ∧
    (latchCause c d s).requestTimer = s.requestTimer ∧
    (latchCause c d s).groupTimer = s.groupTimer ∧
    (latchCause c d s).answerTimer = s.answerTimer ∧ (latchCause c d s).yield = s.yield ∧
    (latchCause c d s).mismatch = s.mismatch ∧ (latchCause c d s).framing = s.framing ∧
    (latchCause c d s).rxFrame = s.rxFrame ∧
    (latchCause c d s).windowDecision = s.windowDecision ∧
    (latchCause c d s).groupBuffer = s.groupBuffer ∧
    (latchCause c d s).takeAbandoned = s.takeAbandoned ∧ (latchCause c d s).station = s.station ∧
    (latchCause c d s).requests = s.requests ∧ (latchCause c d s).answers = s.answers ∧
    (latchCause c d s).seedSlot = s.seedSlot ∧
    (latchCause c d s).teardownPending = s.teardownPending ∧
    (latchCause c d s).latches = (causeSet s.latches c true) ∧
    (latchCause c d s).details = (causeSet s.details c d) ∧
    (latchCause c d s).attnMode = s.attnMode ∧ (latchCause c d s).attnMask = s.attnMask ∧
    (latchCause c d s).attn = (pinFor (causeSet s.latches c true) s.attnMask) := by
  and_intros <;> rfl

/-- Every field after `giveUnknownCount`. -/
@[simp] theorem giveUnknownCount_fields (s : State) :
    (giveUnknownCount s).pending = s.pending ∧
    (giveUnknownCount s).resetAsserted = s.resetAsserted ∧
    (giveUnknownCount s).powerHold = s.powerHold ∧ (giveUnknownCount s).txd = s.txd ∧
    (giveUnknownCount s).dataOut = s.dataOut ∧ (giveUnknownCount s).config = s.config ∧
    (giveUnknownCount s).lock = s.lock ∧ (giveUnknownCount s).port = s.port ∧
    (giveUnknownCount s).table = s.table ∧ (giveUnknownCount s).unknownChunks = s.unknownChunks ∧
    (giveUnknownCount s).items = s.items ∧
    (giveUnknownCount s).appliedSinceMark = s.appliedSinceMark ∧
    (giveUnknownCount s).pendingClear = s.pendingClear ∧
    (giveUnknownCount s).lastDivergence = s.lastDivergence ∧
    (giveUnknownCount s).discardedOwn = s.discardedOwn ∧
    (giveUnknownCount s).running = s.running ∧
    (giveUnknownCount s).runningDiscarded = s.runningDiscarded ∧
    (giveUnknownCount s).fdatClaim = s.fdatClaim ∧ (giveUnknownCount s).portClaim = s.portClaim ∧
    (giveUnknownCount s).staging = s.staging ∧ (giveUnknownCount s).committed = s.committed ∧
    (giveUnknownCount s).applyPending = s.applyPending ∧
    (giveUnknownCount s).results = s.results ∧ (giveUnknownCount s).needed = s.needed ∧
    (giveUnknownCount s).link = s.link ∧ (giveUnknownCount s).txFrame = s.txFrame ∧
    (giveUnknownCount s).fdatCopy = s.fdatCopy ∧
    (giveUnknownCount s).seedAttempts = s.seedAttempts ∧
    (giveUnknownCount s).groupAttempts = s.groupAttempts ∧
    (giveUnknownCount s).answerAttempts = s.answerAttempts ∧
    (giveUnknownCount s).seedTimer = s.seedTimer ∧
    (giveUnknownCount s).requestTimer = s.requestTimer ∧
    (giveUnknownCount s).groupTimer = s.groupTimer ∧
    (giveUnknownCount s).answerTimer = s.answerTimer ∧ (giveUnknownCount s).yield = s.yield ∧
    (giveUnknownCount s).mismatch = s.mismatch ∧ (giveUnknownCount s).framing = s.framing ∧
    (giveUnknownCount s).rxFrame = s.rxFrame ∧
    (giveUnknownCount s).windowDecision = s.windowDecision ∧
    (giveUnknownCount s).groupBuffer = s.groupBuffer ∧
    (giveUnknownCount s).takeAbandoned = s.takeAbandoned ∧
    (giveUnknownCount s).station = s.station ∧ (giveUnknownCount s).requests = s.requests ∧
    (giveUnknownCount s).answers = s.answers ∧ (giveUnknownCount s).seedSlot = s.seedSlot ∧
    (giveUnknownCount s).teardownPending = s.teardownPending ∧
    (giveUnknownCount s).latches = s.latches ∧
    (giveUnknownCount s).details = (causeSet s.details .notInStep (BitVec.ofNat 8 s.unknownChunks.length)) ∧
    (giveUnknownCount s).attnMode = s.attnMode ∧ (giveUnknownCount s).attnMask = s.attnMask ∧
    (giveUnknownCount s).attn = s.attn := by
  and_intros <;> rfl

/-- Every field after `clearLatch`. -/
@[simp] theorem clearLatch_fields (c : Cause) (s : State) :
    (clearLatch c s).pending = s.pending ∧ (clearLatch c s).resetAsserted = s.resetAsserted ∧
    (clearLatch c s).powerHold = s.powerHold ∧ (clearLatch c s).txd = s.txd ∧
    (clearLatch c s).dataOut = s.dataOut ∧ (clearLatch c s).config = s.config ∧
    (clearLatch c s).lock = s.lock ∧ (clearLatch c s).port = s.port ∧
    (clearLatch c s).table = s.table ∧ (clearLatch c s).unknownChunks = s.unknownChunks ∧
    (clearLatch c s).items = s.items ∧ (clearLatch c s).appliedSinceMark = s.appliedSinceMark ∧
    (clearLatch c s).pendingClear = s.pendingClear ∧
    (clearLatch c s).lastDivergence = s.lastDivergence ∧
    (clearLatch c s).discardedOwn = s.discardedOwn ∧ (clearLatch c s).running = s.running ∧
    (clearLatch c s).runningDiscarded = s.runningDiscarded ∧
    (clearLatch c s).fdatClaim = s.fdatClaim ∧ (clearLatch c s).portClaim = s.portClaim ∧
    (clearLatch c s).staging = s.staging ∧ (clearLatch c s).committed = s.committed ∧
    (clearLatch c s).applyPending = s.applyPending ∧ (clearLatch c s).results = s.results ∧
    (clearLatch c s).needed = s.needed ∧ (clearLatch c s).link = s.link ∧
    (clearLatch c s).txFrame = s.txFrame ∧ (clearLatch c s).fdatCopy = s.fdatCopy ∧
    (clearLatch c s).seedAttempts = s.seedAttempts ∧
    (clearLatch c s).groupAttempts = s.groupAttempts ∧
    (clearLatch c s).answerAttempts = s.answerAttempts ∧
    (clearLatch c s).seedTimer = s.seedTimer ∧ (clearLatch c s).requestTimer = s.requestTimer ∧
    (clearLatch c s).groupTimer = s.groupTimer ∧ (clearLatch c s).answerTimer = s.answerTimer ∧
    (clearLatch c s).yield = s.yield ∧ (clearLatch c s).mismatch = s.mismatch ∧
    (clearLatch c s).framing = s.framing ∧ (clearLatch c s).rxFrame = s.rxFrame ∧
    (clearLatch c s).windowDecision = s.windowDecision ∧
    (clearLatch c s).groupBuffer = s.groupBuffer ∧
    (clearLatch c s).takeAbandoned = s.takeAbandoned ∧ (clearLatch c s).station = s.station ∧
    (clearLatch c s).requests = s.requests ∧ (clearLatch c s).answers = s.answers ∧
    (clearLatch c s).seedSlot = s.seedSlot ∧
    (clearLatch c s).teardownPending = s.teardownPending ∧
    (clearLatch c s).latches = (causeSet s.latches c (relatches s c)) ∧
    (clearLatch c s).details = s.details ∧ (clearLatch c s).attnMode = s.attnMode ∧
    (clearLatch c s).attnMask = s.attnMask ∧
    (clearLatch c s).attn = (pinFor (causeSet s.latches c (relatches s c)) s.attnMask) := by
  and_intros <;> rfl

/-- Every field after `clearAllLatches`. -/
@[simp] theorem clearAllLatches_fields (s : State) :
    (clearAllLatches s).pending = s.pending ∧
    (clearAllLatches s).resetAsserted = s.resetAsserted ∧
    (clearAllLatches s).powerHold = s.powerHold ∧ (clearAllLatches s).txd = s.txd ∧
    (clearAllLatches s).dataOut = s.dataOut ∧ (clearAllLatches s).config = s.config ∧
    (clearAllLatches s).lock = s.lock ∧ (clearAllLatches s).port = s.port ∧
    (clearAllLatches s).table = s.table ∧ (clearAllLatches s).unknownChunks = s.unknownChunks ∧
    (clearAllLatches s).items = s.items ∧
    (clearAllLatches s).appliedSinceMark = s.appliedSinceMark ∧
    (clearAllLatches s).pendingClear = s.pendingClear ∧
    (clearAllLatches s).lastDivergence = s.lastDivergence ∧
    (clearAllLatches s).discardedOwn = s.discardedOwn ∧ (clearAllLatches s).running = s.running ∧
    (clearAllLatches s).runningDiscarded = s.runningDiscarded ∧
    (clearAllLatches s).fdatClaim = s.fdatClaim ∧ (clearAllLatches s).portClaim = s.portClaim ∧
    (clearAllLatches s).staging = s.staging ∧ (clearAllLatches s).committed = s.committed ∧
    (clearAllLatches s).applyPending = s.applyPending ∧ (clearAllLatches s).results = s.results ∧
    (clearAllLatches s).needed = s.needed ∧ (clearAllLatches s).link = s.link ∧
    (clearAllLatches s).txFrame = s.txFrame ∧ (clearAllLatches s).fdatCopy = s.fdatCopy ∧
    (clearAllLatches s).seedAttempts = s.seedAttempts ∧
    (clearAllLatches s).groupAttempts = s.groupAttempts ∧
    (clearAllLatches s).answerAttempts = s.answerAttempts ∧
    (clearAllLatches s).seedTimer = s.seedTimer ∧
    (clearAllLatches s).requestTimer = s.requestTimer ∧
    (clearAllLatches s).groupTimer = s.groupTimer ∧
    (clearAllLatches s).answerTimer = s.answerTimer ∧ (clearAllLatches s).yield = s.yield ∧
    (clearAllLatches s).mismatch = s.mismatch ∧ (clearAllLatches s).framing = s.framing ∧
    (clearAllLatches s).rxFrame = s.rxFrame ∧
    (clearAllLatches s).windowDecision = s.windowDecision ∧
    (clearAllLatches s).groupBuffer = s.groupBuffer ∧
    (clearAllLatches s).takeAbandoned = s.takeAbandoned ∧
    (clearAllLatches s).station = s.station ∧ (clearAllLatches s).requests = s.requests ∧
    (clearAllLatches s).answers = s.answers ∧ (clearAllLatches s).seedSlot = s.seedSlot ∧
    (clearAllLatches s).teardownPending = s.teardownPending ∧
    (clearAllLatches s).details = s.details ∧ (clearAllLatches s).attnMode = s.attnMode ∧
    (clearAllLatches s).attnMask = s.attnMask ∧
    (clearAllLatches s).attn = (pinFor (clearAllLatches s).latches s.attnMask) := by
  and_intros <;> rfl

/-- Every field after `copyAttention`. -/
@[simp] theorem copyAttention_fields (s : State) :
    (copyAttention s).pending = s.pending ∧ (copyAttention s).resetAsserted = s.resetAsserted ∧
    (copyAttention s).powerHold = s.powerHold ∧ (copyAttention s).txd = s.txd ∧
    (copyAttention s).dataOut = s.dataOut ∧ (copyAttention s).config = s.config ∧
    (copyAttention s).lock = s.lock ∧ (copyAttention s).port = s.port ∧
    (copyAttention s).table = s.table ∧ (copyAttention s).unknownChunks = s.unknownChunks ∧
    (copyAttention s).items = s.items ∧ (copyAttention s).appliedSinceMark = s.appliedSinceMark ∧
    (copyAttention s).pendingClear = s.pendingClear ∧
    (copyAttention s).lastDivergence = s.lastDivergence ∧
    (copyAttention s).discardedOwn = s.discardedOwn ∧ (copyAttention s).running = s.running ∧
    (copyAttention s).runningDiscarded = s.runningDiscarded ∧
    (copyAttention s).fdatClaim = s.fdatClaim ∧ (copyAttention s).portClaim = s.portClaim ∧
    (copyAttention s).staging = s.staging ∧ (copyAttention s).committed = s.committed ∧
    (copyAttention s).applyPending = s.applyPending ∧ (copyAttention s).results = s.results ∧
    (copyAttention s).needed = s.needed ∧ (copyAttention s).link = s.link ∧
    (copyAttention s).txFrame = s.txFrame ∧ (copyAttention s).fdatCopy = s.fdatCopy ∧
    (copyAttention s).seedAttempts = s.seedAttempts ∧
    (copyAttention s).groupAttempts = s.groupAttempts ∧
    (copyAttention s).answerAttempts = s.answerAttempts ∧
    (copyAttention s).seedTimer = s.seedTimer ∧ (copyAttention s).requestTimer = s.requestTimer ∧
    (copyAttention s).groupTimer = s.groupTimer ∧ (copyAttention s).answerTimer = s.answerTimer ∧
    (copyAttention s).yield = s.yield ∧ (copyAttention s).mismatch = s.mismatch ∧
    (copyAttention s).framing = s.framing ∧ (copyAttention s).rxFrame = s.rxFrame ∧
    (copyAttention s).windowDecision = s.windowDecision ∧
    (copyAttention s).groupBuffer = s.groupBuffer ∧
    (copyAttention s).takeAbandoned = s.takeAbandoned ∧ (copyAttention s).station = s.station ∧
    (copyAttention s).requests = s.requests ∧ (copyAttention s).answers = s.answers ∧
    (copyAttention s).seedSlot = s.seedSlot ∧
    (copyAttention s).teardownPending = s.teardownPending ∧
    (copyAttention s).latches = s.latches ∧ (copyAttention s).details = s.details ∧
    (copyAttention s).attnMode = s.config.attnMode ∧
    (copyAttention s).attnMask = s.config.attnMask ∧
    (copyAttention s).attn = (pinFor s.latches s.config.attnMask) := by
  and_intros <;> rfl

/-- Every field after `giveResult`. -/
@[simp] theorem giveResult_fields (b : List Byte) (s : State) :
    (giveResult b s).pending = s.pending ∧ (giveResult b s).resetAsserted = s.resetAsserted ∧
    (giveResult b s).powerHold = s.powerHold ∧ (giveResult b s).txd = s.txd ∧
    (giveResult b s).dataOut = s.dataOut ∧ (giveResult b s).config = s.config ∧
    (giveResult b s).lock = s.lock ∧ (giveResult b s).port = (portWithResult b s.port) ∧
    (giveResult b s).table = s.table ∧ (giveResult b s).unknownChunks = s.unknownChunks ∧
    (giveResult b s).items = s.items ∧ (giveResult b s).appliedSinceMark = s.appliedSinceMark ∧
    (giveResult b s).pendingClear = s.pendingClear ∧
    (giveResult b s).lastDivergence = s.lastDivergence ∧
    (giveResult b s).discardedOwn = s.discardedOwn ∧ (giveResult b s).running = s.running ∧
    (giveResult b s).runningDiscarded = s.runningDiscarded ∧
    (giveResult b s).fdatClaim = s.fdatClaim ∧ (giveResult b s).portClaim = s.portClaim ∧
    (giveResult b s).staging = s.staging ∧ (giveResult b s).committed = s.committed ∧
    (giveResult b s).applyPending = s.applyPending ∧ (giveResult b s).results = s.results ∧
    (giveResult b s).needed = s.needed ∧ (giveResult b s).link = s.link ∧
    (giveResult b s).txFrame = s.txFrame ∧ (giveResult b s).fdatCopy = s.fdatCopy ∧
    (giveResult b s).seedAttempts = s.seedAttempts ∧
    (giveResult b s).groupAttempts = s.groupAttempts ∧
    (giveResult b s).answerAttempts = s.answerAttempts ∧
    (giveResult b s).seedTimer = s.seedTimer ∧ (giveResult b s).requestTimer = s.requestTimer ∧
    (giveResult b s).groupTimer = s.groupTimer ∧ (giveResult b s).answerTimer = s.answerTimer ∧
    (giveResult b s).yield = s.yield ∧ (giveResult b s).mismatch = s.mismatch ∧
    (giveResult b s).framing = s.framing ∧ (giveResult b s).rxFrame = s.rxFrame ∧
    (giveResult b s).windowDecision = s.windowDecision ∧
    (giveResult b s).groupBuffer = s.groupBuffer ∧
    (giveResult b s).takeAbandoned = s.takeAbandoned ∧ (giveResult b s).station = s.station ∧
    (giveResult b s).requests = s.requests ∧ (giveResult b s).answers = s.answers ∧
    (giveResult b s).seedSlot = s.seedSlot ∧
    (giveResult b s).teardownPending = s.teardownPending ∧ (giveResult b s).latches = s.latches ∧
    (giveResult b s).details = s.details ∧ (giveResult b s).attnMode = s.attnMode ∧
    (giveResult b s).attnMask = s.attnMask ∧ (giveResult b s).attn = s.attn := by
  and_intros <;> rfl

/-- Every field after `giveCode`. -/
@[simp] theorem giveCode_fields (c : Code) (s : State) :
    (giveCode c s).pending = s.pending ∧ (giveCode c s).resetAsserted = s.resetAsserted ∧
    (giveCode c s).powerHold = s.powerHold ∧ (giveCode c s).txd = s.txd ∧
    (giveCode c s).dataOut = s.dataOut ∧ (giveCode c s).config = s.config ∧
    (giveCode c s).lock = s.lock ∧ (giveCode c s).port = (portWithResult [codeByte c] s.port) ∧
    (giveCode c s).table = s.table ∧ (giveCode c s).unknownChunks = s.unknownChunks ∧
    (giveCode c s).items = s.items ∧ (giveCode c s).appliedSinceMark = s.appliedSinceMark ∧
    (giveCode c s).pendingClear = s.pendingClear ∧
    (giveCode c s).lastDivergence = s.lastDivergence ∧
    (giveCode c s).discardedOwn = s.discardedOwn ∧ (giveCode c s).running = s.running ∧
    (giveCode c s).runningDiscarded = s.runningDiscarded ∧
    (giveCode c s).fdatClaim = s.fdatClaim ∧ (giveCode c s).portClaim = s.portClaim ∧
    (giveCode c s).staging = s.staging ∧ (giveCode c s).committed = s.committed ∧
    (giveCode c s).applyPending = s.applyPending ∧ (giveCode c s).results = s.results ∧
    (giveCode c s).needed = s.needed ∧ (giveCode c s).link = s.link ∧
    (giveCode c s).txFrame = s.txFrame ∧ (giveCode c s).fdatCopy = s.fdatCopy ∧
    (giveCode c s).seedAttempts = s.seedAttempts ∧
    (giveCode c s).groupAttempts = s.groupAttempts ∧
    (giveCode c s).answerAttempts = s.answerAttempts ∧ (giveCode c s).seedTimer = s.seedTimer ∧
    (giveCode c s).requestTimer = s.requestTimer ∧ (giveCode c s).groupTimer = s.groupTimer ∧
    (giveCode c s).answerTimer = s.answerTimer ∧ (giveCode c s).yield = s.yield ∧
    (giveCode c s).mismatch = s.mismatch ∧ (giveCode c s).framing = s.framing ∧
    (giveCode c s).rxFrame = s.rxFrame ∧ (giveCode c s).windowDecision = s.windowDecision ∧
    (giveCode c s).groupBuffer = s.groupBuffer ∧ (giveCode c s).takeAbandoned = s.takeAbandoned ∧
    (giveCode c s).station = s.station ∧ (giveCode c s).requests = s.requests ∧
    (giveCode c s).answers = s.answers ∧ (giveCode c s).seedSlot = s.seedSlot ∧
    (giveCode c s).teardownPending = s.teardownPending ∧ (giveCode c s).latches = s.latches ∧
    (giveCode c s).details = s.details ∧ (giveCode c s).attnMode = s.attnMode ∧
    (giveCode c s).attnMask = s.attnMask ∧ (giveCode c s).attn = s.attn := by
  and_intros <;> rfl

/-- Every field after `waitFor`. -/
@[simp] theorem waitFor_fields (w : Wait) (s : State) :
    (waitFor w s).pending = s.pending ∧ (waitFor w s).resetAsserted = s.resetAsserted ∧
    (waitFor w s).powerHold = s.powerHold ∧ (waitFor w s).txd = s.txd ∧
    (waitFor w s).dataOut = s.dataOut ∧ (waitFor w s).config = s.config ∧
    (waitFor w s).lock = s.lock ∧ (waitFor w s).table = s.table ∧
    (waitFor w s).unknownChunks = s.unknownChunks ∧ (waitFor w s).items = s.items ∧
    (waitFor w s).appliedSinceMark = s.appliedSinceMark ∧
    (waitFor w s).pendingClear = s.pendingClear ∧
    (waitFor w s).lastDivergence = s.lastDivergence ∧
    (waitFor w s).discardedOwn = s.discardedOwn ∧ (waitFor w s).running = s.running ∧
    (waitFor w s).runningDiscarded = s.runningDiscarded ∧ (waitFor w s).fdatClaim = s.fdatClaim ∧
    (waitFor w s).portClaim = s.portClaim ∧ (waitFor w s).staging = s.staging ∧
    (waitFor w s).committed = s.committed ∧ (waitFor w s).applyPending = s.applyPending ∧
    (waitFor w s).results = s.results ∧ (waitFor w s).needed = s.needed ∧
    (waitFor w s).link = s.link ∧ (waitFor w s).txFrame = s.txFrame ∧
    (waitFor w s).fdatCopy = s.fdatCopy ∧ (waitFor w s).seedAttempts = s.seedAttempts ∧
    (waitFor w s).groupAttempts = s.groupAttempts ∧
    (waitFor w s).answerAttempts = s.answerAttempts ∧ (waitFor w s).seedTimer = s.seedTimer ∧
    (waitFor w s).requestTimer = s.requestTimer ∧ (waitFor w s).groupTimer = s.groupTimer ∧
    (waitFor w s).answerTimer = s.answerTimer ∧ (waitFor w s).yield = s.yield ∧
    (waitFor w s).mismatch = s.mismatch ∧ (waitFor w s).framing = s.framing ∧
    (waitFor w s).rxFrame = s.rxFrame ∧ (waitFor w s).windowDecision = s.windowDecision ∧
    (waitFor w s).groupBuffer = s.groupBuffer ∧ (waitFor w s).takeAbandoned = s.takeAbandoned ∧
    (waitFor w s).station = s.station ∧ (waitFor w s).requests = s.requests ∧
    (waitFor w s).answers = s.answers ∧ (waitFor w s).seedSlot = s.seedSlot ∧
    (waitFor w s).teardownPending = s.teardownPending ∧ (waitFor w s).latches = s.latches ∧
    (waitFor w s).details = s.details ∧ (waitFor w s).attnMode = s.attnMode ∧
    (waitFor w s).attnMask = s.attnMask ∧ (waitFor w s).attn = s.attn := by
  and_intros <;> rfl

/-- Every field after `misusePort`. -/
@[simp] theorem misusePort_fields (m : Misuse) (s : State) :
    (misusePort m s).pending = s.pending ∧ (misusePort m s).resetAsserted = s.resetAsserted ∧
    (misusePort m s).powerHold = s.powerHold ∧ (misusePort m s).txd = s.txd ∧
    (misusePort m s).dataOut = s.dataOut ∧ (misusePort m s).config = s.config ∧
    (misusePort m s).lock = s.lock ∧ (misusePort m s).port = s.port ∧
    (misusePort m s).table = s.table ∧ (misusePort m s).unknownChunks = s.unknownChunks ∧
    (misusePort m s).items = s.items ∧ (misusePort m s).appliedSinceMark = s.appliedSinceMark ∧
    (misusePort m s).pendingClear = s.pendingClear ∧
    (misusePort m s).lastDivergence = s.lastDivergence ∧
    (misusePort m s).discardedOwn = s.discardedOwn ∧ (misusePort m s).running = s.running ∧
    (misusePort m s).runningDiscarded = s.runningDiscarded ∧
    (misusePort m s).fdatClaim = s.fdatClaim ∧ (misusePort m s).portClaim = s.portClaim ∧
    (misusePort m s).staging = s.staging ∧ (misusePort m s).committed = s.committed ∧
    (misusePort m s).applyPending = s.applyPending ∧ (misusePort m s).results = s.results ∧
    (misusePort m s).needed = s.needed ∧ (misusePort m s).link = s.link ∧
    (misusePort m s).txFrame = s.txFrame ∧ (misusePort m s).fdatCopy = s.fdatCopy ∧
    (misusePort m s).seedAttempts = s.seedAttempts ∧
    (misusePort m s).groupAttempts = s.groupAttempts ∧
    (misusePort m s).answerAttempts = s.answerAttempts ∧
    (misusePort m s).seedTimer = s.seedTimer ∧ (misusePort m s).requestTimer = s.requestTimer ∧
    (misusePort m s).groupTimer = s.groupTimer ∧ (misusePort m s).answerTimer = s.answerTimer ∧
    (misusePort m s).yield = s.yield ∧ (misusePort m s).mismatch = s.mismatch ∧
    (misusePort m s).framing = s.framing ∧ (misusePort m s).rxFrame = s.rxFrame ∧
    (misusePort m s).windowDecision = s.windowDecision ∧
    (misusePort m s).groupBuffer = s.groupBuffer ∧
    (misusePort m s).takeAbandoned = s.takeAbandoned ∧ (misusePort m s).station = s.station ∧
    (misusePort m s).requests = s.requests ∧ (misusePort m s).answers = s.answers ∧
    (misusePort m s).seedSlot = s.seedSlot ∧
    (misusePort m s).teardownPending = s.teardownPending ∧
    (misusePort m s).latches = (causeSet s.latches .portError true) ∧
    (misusePort m s).details = (causeSet s.details .portError (misuseCode m)) ∧
    (misusePort m s).attnMode = s.attnMode ∧ (misusePort m s).attnMask = s.attnMask ∧
    (misusePort m s).attn = (pinFor (causeSet s.latches .portError true) s.attnMask) := by
  and_intros <;> rfl

/-- Every field after `endGrant`. -/
@[simp] theorem endGrant_fields (s : State) :
    (endGrant s).pending = s.pending ∧ (endGrant s).resetAsserted = s.resetAsserted ∧
    (endGrant s).powerHold = s.powerHold ∧ (endGrant s).txd = s.txd ∧
    (endGrant s).dataOut = s.dataOut ∧ (endGrant s).config = s.config ∧
    (endGrant s).lock = s.lock ∧ (endGrant s).port = s.port ∧ (endGrant s).table = s.table ∧
    (endGrant s).unknownChunks = s.unknownChunks ∧ (endGrant s).items = s.items ∧
    (endGrant s).appliedSinceMark = s.appliedSinceMark ∧
    (endGrant s).pendingClear = s.pendingClear ∧ (endGrant s).lastDivergence = s.lastDivergence ∧
    (endGrant s).discardedOwn = s.discardedOwn ∧ (endGrant s).running = none ∧
    (endGrant s).runningDiscarded = false ∧ (endGrant s).fdatClaim = s.fdatClaim ∧
    (endGrant s).portClaim = s.portClaim ∧ (endGrant s).staging = s.staging ∧
    (endGrant s).committed = s.committed ∧ (endGrant s).applyPending = s.applyPending ∧
    (endGrant s).results = s.results ∧ (endGrant s).needed = s.needed ∧
    (endGrant s).link = s.link ∧ (endGrant s).txFrame = s.txFrame ∧
    (endGrant s).fdatCopy = s.fdatCopy ∧ (endGrant s).seedAttempts = s.seedAttempts ∧
    (endGrant s).groupAttempts = s.groupAttempts ∧
    (endGrant s).answerAttempts = s.answerAttempts ∧ (endGrant s).seedTimer = s.seedTimer ∧
    (endGrant s).requestTimer = s.requestTimer ∧ (endGrant s).groupTimer = s.groupTimer ∧
    (endGrant s).answerTimer = s.answerTimer ∧ (endGrant s).yield = s.yield ∧
    (endGrant s).mismatch = s.mismatch ∧ (endGrant s).framing = s.framing ∧
    (endGrant s).rxFrame = s.rxFrame ∧ (endGrant s).windowDecision = s.windowDecision ∧
    (endGrant s).groupBuffer = s.groupBuffer ∧ (endGrant s).takeAbandoned = s.takeAbandoned ∧
    (endGrant s).station = s.station ∧ (endGrant s).requests = s.requests ∧
    (endGrant s).answers = s.answers ∧ (endGrant s).seedSlot = s.seedSlot ∧
    (endGrant s).teardownPending = s.teardownPending ∧ (endGrant s).latches = s.latches ∧
    (endGrant s).details = s.details ∧ (endGrant s).attnMode = s.attnMode ∧
    (endGrant s).attnMask = s.attnMask ∧ (endGrant s).attn = s.attn := by
  and_intros <;> rfl

/-- Every field after `dropFdatRead`. -/
@[simp] theorem dropFdatRead_fields (s : State) :
    (dropFdatRead s).pending = s.pending ∧ (dropFdatRead s).resetAsserted = s.resetAsserted ∧
    (dropFdatRead s).powerHold = s.powerHold ∧ (dropFdatRead s).txd = s.txd ∧
    (dropFdatRead s).dataOut = s.dataOut ∧ (dropFdatRead s).config = s.config ∧
    (dropFdatRead s).lock = s.lock ∧ (dropFdatRead s).port = s.port ∧
    (dropFdatRead s).table = s.table ∧ (dropFdatRead s).unknownChunks = s.unknownChunks ∧
    (dropFdatRead s).items = s.items ∧ (dropFdatRead s).appliedSinceMark = s.appliedSinceMark ∧
    (dropFdatRead s).pendingClear = s.pendingClear ∧
    (dropFdatRead s).lastDivergence = s.lastDivergence ∧
    (dropFdatRead s).discardedOwn = s.discardedOwn ∧ (dropFdatRead s).running = s.running ∧
    (dropFdatRead s).fdatClaim = none ∧ (dropFdatRead s).portClaim = s.portClaim ∧
    (dropFdatRead s).staging = s.staging ∧ (dropFdatRead s).committed = s.committed ∧
    (dropFdatRead s).applyPending = s.applyPending ∧ (dropFdatRead s).results = s.results ∧
    (dropFdatRead s).needed = s.needed ∧ (dropFdatRead s).link = s.link ∧
    (dropFdatRead s).txFrame = s.txFrame ∧ (dropFdatRead s).fdatCopy = none ∧
    (dropFdatRead s).seedAttempts = s.seedAttempts ∧
    (dropFdatRead s).groupAttempts = s.groupAttempts ∧
    (dropFdatRead s).answerAttempts = s.answerAttempts ∧
    (dropFdatRead s).seedTimer = s.seedTimer ∧ (dropFdatRead s).requestTimer = s.requestTimer ∧
    (dropFdatRead s).groupTimer = s.groupTimer ∧ (dropFdatRead s).answerTimer = s.answerTimer ∧
    (dropFdatRead s).yield = s.yield ∧ (dropFdatRead s).mismatch = s.mismatch ∧
    (dropFdatRead s).framing = s.framing ∧ (dropFdatRead s).rxFrame = s.rxFrame ∧
    (dropFdatRead s).windowDecision = s.windowDecision ∧
    (dropFdatRead s).groupBuffer = s.groupBuffer ∧
    (dropFdatRead s).takeAbandoned = s.takeAbandoned ∧ (dropFdatRead s).station = s.station ∧
    (dropFdatRead s).requests = s.requests ∧ (dropFdatRead s).answers = s.answers ∧
    (dropFdatRead s).seedSlot = s.seedSlot ∧
    (dropFdatRead s).teardownPending = s.teardownPending ∧ (dropFdatRead s).latches = s.latches ∧
    (dropFdatRead s).details = s.details ∧ (dropFdatRead s).attnMode = s.attnMode ∧
    (dropFdatRead s).attnMask = s.attnMask ∧ (dropFdatRead s).attn = s.attn := by
  and_intros <;> rfl

/-- Every field after `setRequests`. -/
@[simp] theorem setRequests_fields (l : List Request) (s : State) :
    (setRequests l s).pending = s.pending ∧ (setRequests l s).resetAsserted = s.resetAsserted ∧
    (setRequests l s).powerHold = s.powerHold ∧ (setRequests l s).txd = s.txd ∧
    (setRequests l s).dataOut = s.dataOut ∧ (setRequests l s).config = s.config ∧
    (setRequests l s).lock = s.lock ∧ (setRequests l s).port = s.port ∧
    (setRequests l s).table = s.table ∧ (setRequests l s).unknownChunks = s.unknownChunks ∧
    (setRequests l s).items = s.items ∧ (setRequests l s).appliedSinceMark = s.appliedSinceMark ∧
    (setRequests l s).pendingClear = s.pendingClear ∧
    (setRequests l s).lastDivergence = s.lastDivergence ∧
    (setRequests l s).discardedOwn = s.discardedOwn ∧ (setRequests l s).running = s.running ∧
    (setRequests l s).runningDiscarded = s.runningDiscarded ∧
    (setRequests l s).fdatClaim = s.fdatClaim ∧ (setRequests l s).portClaim = s.portClaim ∧
    (setRequests l s).staging = s.staging ∧ (setRequests l s).committed = s.committed ∧
    (setRequests l s).applyPending = s.applyPending ∧ (setRequests l s).results = s.results ∧
    (setRequests l s).needed = s.needed ∧ (setRequests l s).link = s.link ∧
    (setRequests l s).txFrame = s.txFrame ∧ (setRequests l s).fdatCopy = s.fdatCopy ∧
    (setRequests l s).seedAttempts = s.seedAttempts ∧
    (setRequests l s).groupAttempts = s.groupAttempts ∧
    (setRequests l s).answerAttempts = s.answerAttempts ∧
    (setRequests l s).seedTimer = s.seedTimer ∧
    (setRequests l s).requestTimer = (s.requestTimer.filter fun t => isWanted l t.chunk) ∧
    (setRequests l s).groupTimer = s.groupTimer ∧ (setRequests l s).answerTimer = s.answerTimer ∧
    (setRequests l s).yield = s.yield ∧ (setRequests l s).mismatch = s.mismatch ∧
    (setRequests l s).framing = s.framing ∧ (setRequests l s).rxFrame = s.rxFrame ∧
    (setRequests l s).windowDecision = s.windowDecision ∧
    (setRequests l s).groupBuffer = s.groupBuffer ∧
    (setRequests l s).takeAbandoned = s.takeAbandoned ∧ (setRequests l s).station = s.station ∧
    (setRequests l s).requests = l ∧ (setRequests l s).answers = s.answers ∧
    (setRequests l s).seedSlot = s.seedSlot ∧
    (setRequests l s).teardownPending = s.teardownPending ∧
    (setRequests l s).latches = s.latches ∧ (setRequests l s).details = s.details ∧
    (setRequests l s).attnMode = s.attnMode ∧ (setRequests l s).attnMask = s.attnMask ∧
    (setRequests l s).attn = s.attn := by
  and_intros <;> rfl

/-- Every field after `addWanted`. -/
@[simp] theorem addWanted_fields (l : List Chunk) (s : State) :
    (addWanted l s).pending = s.pending ∧ (addWanted l s).resetAsserted = s.resetAsserted ∧
    (addWanted l s).powerHold = s.powerHold ∧ (addWanted l s).txd = s.txd ∧
    (addWanted l s).dataOut = s.dataOut ∧ (addWanted l s).config = s.config ∧
    (addWanted l s).lock = s.lock ∧ (addWanted l s).port = s.port ∧
    (addWanted l s).table = s.table ∧ (addWanted l s).unknownChunks = s.unknownChunks ∧
    (addWanted l s).items = s.items ∧ (addWanted l s).appliedSinceMark = s.appliedSinceMark ∧
    (addWanted l s).pendingClear = s.pendingClear ∧
    (addWanted l s).lastDivergence = s.lastDivergence ∧
    (addWanted l s).discardedOwn = s.discardedOwn ∧ (addWanted l s).running = s.running ∧
    (addWanted l s).runningDiscarded = s.runningDiscarded ∧
    (addWanted l s).fdatClaim = s.fdatClaim ∧ (addWanted l s).portClaim = s.portClaim ∧
    (addWanted l s).staging = s.staging ∧ (addWanted l s).committed = s.committed ∧
    (addWanted l s).applyPending = s.applyPending ∧ (addWanted l s).results = s.results ∧
    (addWanted l s).needed = s.needed ∧ (addWanted l s).link = s.link ∧
    (addWanted l s).txFrame = s.txFrame ∧ (addWanted l s).fdatCopy = s.fdatCopy ∧
    (addWanted l s).seedAttempts = s.seedAttempts ∧
    (addWanted l s).groupAttempts = s.groupAttempts ∧
    (addWanted l s).answerAttempts = s.answerAttempts ∧ (addWanted l s).seedTimer = s.seedTimer ∧
    (addWanted l s).requestTimer = (s.requestTimer.filter fun t => isWanted (withWanted s.requests l) t.chunk) ∧
    (addWanted l s).groupTimer = s.groupTimer ∧ (addWanted l s).answerTimer = s.answerTimer ∧
    (addWanted l s).yield = s.yield ∧ (addWanted l s).mismatch = s.mismatch ∧
    (addWanted l s).framing = s.framing ∧ (addWanted l s).rxFrame = s.rxFrame ∧
    (addWanted l s).windowDecision = s.windowDecision ∧
    (addWanted l s).groupBuffer = s.groupBuffer ∧
    (addWanted l s).takeAbandoned = s.takeAbandoned ∧ (addWanted l s).station = s.station ∧
    (addWanted l s).requests = (withWanted s.requests l) ∧ (addWanted l s).answers = s.answers ∧
    (addWanted l s).seedSlot = s.seedSlot ∧ (addWanted l s).teardownPending = s.teardownPending ∧
    (addWanted l s).latches = s.latches ∧ (addWanted l s).details = s.details ∧
    (addWanted l s).attnMode = s.attnMode ∧ (addWanted l s).attnMask = s.attnMask ∧
    (addWanted l s).attn = s.attn := by
  and_intros <;> rfl

/-- Every field after `setGroupState`. -/
@[simp] theorem setGroupState_fields (g : GroupState) (s : State) :
    (setGroupState g s).pending = s.pending ∧
    (setGroupState g s).resetAsserted = s.resetAsserted ∧
    (setGroupState g s).powerHold = s.powerHold ∧ (setGroupState g s).txd = s.txd ∧
    (setGroupState g s).dataOut = s.dataOut ∧ (setGroupState g s).config = s.config ∧
    (setGroupState g s).lock = s.lock ∧ (setGroupState g s).port = s.port ∧
    (setGroupState g s).table = s.table ∧ (setGroupState g s).unknownChunks = s.unknownChunks ∧
    (setGroupState g s).items = s.items ∧
    (setGroupState g s).appliedSinceMark = s.appliedSinceMark ∧
    (setGroupState g s).pendingClear = s.pendingClear ∧
    (setGroupState g s).lastDivergence = s.lastDivergence ∧
    (setGroupState g s).discardedOwn = s.discardedOwn ∧ (setGroupState g s).running = s.running ∧
    (setGroupState g s).runningDiscarded = s.runningDiscarded ∧
    (setGroupState g s).fdatClaim = s.fdatClaim ∧ (setGroupState g s).portClaim = s.portClaim ∧
    (setGroupState g s).staging = s.staging ∧
    (setGroupState g s).committed = (s.committed.map fun c => { c with state := g }) ∧
    (setGroupState g s).applyPending = s.applyPending ∧ (setGroupState g s).results = s.results ∧
    (setGroupState g s).needed = s.needed ∧ (setGroupState g s).link = s.link ∧
    (setGroupState g s).txFrame = s.txFrame ∧ (setGroupState g s).fdatCopy = s.fdatCopy ∧
    (setGroupState g s).seedAttempts = s.seedAttempts ∧
    (setGroupState g s).groupAttempts = s.groupAttempts ∧
    (setGroupState g s).answerAttempts = s.answerAttempts ∧
    (setGroupState g s).seedTimer = s.seedTimer ∧
    (setGroupState g s).requestTimer = s.requestTimer ∧
    (setGroupState g s).groupTimer = s.groupTimer ∧
    (setGroupState g s).answerTimer = s.answerTimer ∧ (setGroupState g s).yield = s.yield ∧
    (setGroupState g s).mismatch = s.mismatch ∧ (setGroupState g s).framing = s.framing ∧
    (setGroupState g s).rxFrame = s.rxFrame ∧
    (setGroupState g s).windowDecision = s.windowDecision ∧
    (setGroupState g s).groupBuffer = s.groupBuffer ∧
    (setGroupState g s).takeAbandoned = s.takeAbandoned ∧
    (setGroupState g s).station = s.station ∧ (setGroupState g s).requests = s.requests ∧
    (setGroupState g s).answers = s.answers ∧ (setGroupState g s).seedSlot = s.seedSlot ∧
    (setGroupState g s).teardownPending = s.teardownPending ∧
    (setGroupState g s).latches = s.latches ∧ (setGroupState g s).details = s.details ∧
    (setGroupState g s).attnMode = s.attnMode ∧ (setGroupState g s).attnMask = s.attnMask ∧
    (setGroupState g s).attn = s.attn := by
  and_intros <;> rfl

/-- Every field after `dropCommitted`. -/
@[simp] theorem dropCommitted_fields (g : GroupStatus) (s : State) :
    (dropCommitted g s).pending = s.pending ∧
    (dropCommitted g s).resetAsserted = s.resetAsserted ∧
    (dropCommitted g s).powerHold = s.powerHold ∧ (dropCommitted g s).txd = s.txd ∧
    (dropCommitted g s).dataOut = s.dataOut ∧ (dropCommitted g s).config = s.config ∧
    (dropCommitted g s).lock = s.lock ∧ (dropCommitted g s).port = s.port ∧
    (dropCommitted g s).table = s.table ∧ (dropCommitted g s).unknownChunks = s.unknownChunks ∧
    (dropCommitted g s).items = s.items ∧
    (dropCommitted g s).appliedSinceMark = s.appliedSinceMark ∧
    (dropCommitted g s).pendingClear = s.pendingClear ∧
    (dropCommitted g s).lastDivergence = s.lastDivergence ∧
    (dropCommitted g s).discardedOwn = s.discardedOwn ∧ (dropCommitted g s).running = s.running ∧
    (dropCommitted g s).runningDiscarded = s.runningDiscarded ∧
    (dropCommitted g s).fdatClaim = s.fdatClaim ∧ (dropCommitted g s).portClaim = s.portClaim ∧
    (dropCommitted g s).staging = s.staging ∧ (dropCommitted g s).committed = none ∧
    (dropCommitted g s).applyPending = s.applyPending ∧
    (dropCommitted g s).results = { s.results with status := g } ∧
    (dropCommitted g s).needed = [] ∧ (dropCommitted g s).link = s.link ∧
    (dropCommitted g s).txFrame = s.txFrame ∧ (dropCommitted g s).fdatCopy = s.fdatCopy ∧
    (dropCommitted g s).seedAttempts = s.seedAttempts ∧
    (dropCommitted g s).groupAttempts = s.groupAttempts ∧
    (dropCommitted g s).answerAttempts = s.answerAttempts ∧
    (dropCommitted g s).seedTimer = s.seedTimer ∧
    (dropCommitted g s).requestTimer = s.requestTimer ∧ (dropCommitted g s).groupTimer = none ∧
    (dropCommitted g s).answerTimer = s.answerTimer ∧ (dropCommitted g s).yield = s.yield ∧
    (dropCommitted g s).mismatch = s.mismatch ∧ (dropCommitted g s).framing = s.framing ∧
    (dropCommitted g s).rxFrame = s.rxFrame ∧
    (dropCommitted g s).windowDecision = s.windowDecision ∧
    (dropCommitted g s).groupBuffer = s.groupBuffer ∧
    (dropCommitted g s).takeAbandoned = s.takeAbandoned ∧
    (dropCommitted g s).station = s.station ∧ (dropCommitted g s).requests = s.requests ∧
    (dropCommitted g s).answers = s.answers ∧ (dropCommitted g s).seedSlot = s.seedSlot ∧
    (dropCommitted g s).teardownPending = s.teardownPending ∧
    (dropCommitted g s).latches = s.latches ∧ (dropCommitted g s).details = s.details ∧
    (dropCommitted g s).attnMode = s.attnMode ∧ (dropCommitted g s).attnMask = s.attnMask ∧
    (dropCommitted g s).attn = s.attn := by
  and_intros <;> rfl

/-- Every field after `endCommitted`. -/
@[simp] theorem endCommitted_fields (g : GroupStatus) (s : State) :
    (endCommitted g s).pending = s.pending ∧ (endCommitted g s).resetAsserted = s.resetAsserted ∧
    (endCommitted g s).powerHold = s.powerHold ∧ (endCommitted g s).txd = s.txd ∧
    (endCommitted g s).dataOut = s.dataOut ∧ (endCommitted g s).config = s.config ∧
    (endCommitted g s).lock = s.lock ∧ (endCommitted g s).port = s.port ∧
    (endCommitted g s).table = s.table ∧ (endCommitted g s).unknownChunks = s.unknownChunks ∧
    (endCommitted g s).items = s.items ∧
    (endCommitted g s).appliedSinceMark = s.appliedSinceMark ∧
    (endCommitted g s).pendingClear = s.pendingClear ∧
    (endCommitted g s).lastDivergence = s.lastDivergence ∧
    (endCommitted g s).discardedOwn = s.discardedOwn ∧ (endCommitted g s).running = s.running ∧
    (endCommitted g s).runningDiscarded = s.runningDiscarded ∧
    (endCommitted g s).fdatClaim = s.fdatClaim ∧ (endCommitted g s).portClaim = s.portClaim ∧
    (endCommitted g s).staging = s.staging ∧ (endCommitted g s).committed = none ∧
    (endCommitted g s).applyPending = s.applyPending ∧
    (endCommitted g s).results = { s.results with status := g } ∧
    (endCommitted g s).needed = [] ∧ (endCommitted g s).link = s.link ∧
    (endCommitted g s).txFrame = s.txFrame ∧ (endCommitted g s).fdatCopy = s.fdatCopy ∧
    (endCommitted g s).seedAttempts = s.seedAttempts ∧
    (endCommitted g s).groupAttempts = s.groupAttempts ∧
    (endCommitted g s).answerAttempts = s.answerAttempts ∧
    (endCommitted g s).seedTimer = s.seedTimer ∧
    (endCommitted g s).requestTimer = s.requestTimer ∧ (endCommitted g s).groupTimer = none ∧
    (endCommitted g s).answerTimer = s.answerTimer ∧ (endCommitted g s).yield = s.yield ∧
    (endCommitted g s).mismatch = s.mismatch ∧ (endCommitted g s).framing = s.framing ∧
    (endCommitted g s).rxFrame = s.rxFrame ∧
    (endCommitted g s).windowDecision = s.windowDecision ∧
    (endCommitted g s).groupBuffer = s.groupBuffer ∧
    (endCommitted g s).takeAbandoned = s.takeAbandoned ∧ (endCommitted g s).station = s.station ∧
    (endCommitted g s).requests = s.requests ∧ (endCommitted g s).answers = s.answers ∧
    (endCommitted g s).seedSlot = s.seedSlot ∧
    (endCommitted g s).teardownPending = s.teardownPending ∧
    (endCommitted g s).latches = (causeSet s.latches .done true) ∧
    (endCommitted g s).details = (causeSet s.details .done (groupStatusCode g)) ∧
    (endCommitted g s).attnMode = s.attnMode ∧ (endCommitted g s).attnMask = s.attnMask ∧
    (endCommitted g s).attn = (pinFor (causeSet s.latches .done true) s.attnMask) := by
  and_intros <;> rfl

/-- Every field after `endApplied`. -/
@[simp] theorem endApplied_fields (g : GroupStatus) (s : State) :
    (endApplied g s).pending = s.pending ∧ (endApplied g s).resetAsserted = s.resetAsserted ∧
    (endApplied g s).powerHold = s.powerHold ∧ (endApplied g s).txd = s.txd ∧
    (endApplied g s).dataOut = s.dataOut ∧ (endApplied g s).config = s.config ∧
    (endApplied g s).lock = s.lock ∧ (endApplied g s).port = s.port ∧
    (endApplied g s).table = s.table ∧ (endApplied g s).unknownChunks = s.unknownChunks ∧
    (endApplied g s).items = s.items ∧ (endApplied g s).appliedSinceMark = s.appliedSinceMark ∧
    (endApplied g s).pendingClear = s.pendingClear ∧
    (endApplied g s).lastDivergence = s.lastDivergence ∧
    (endApplied g s).discardedOwn = s.discardedOwn ∧ (endApplied g s).running = s.running ∧
    (endApplied g s).runningDiscarded = s.runningDiscarded ∧
    (endApplied g s).fdatClaim = s.fdatClaim ∧ (endApplied g s).portClaim = s.portClaim ∧
    (endApplied g s).staging = s.staging ∧ (endApplied g s).committed = s.committed ∧
    (endApplied g s).applyPending = false ∧ (endApplied g s).results = s.results ∧
    (endApplied g s).needed = s.needed ∧ (endApplied g s).link = s.link ∧
    (endApplied g s).txFrame = s.txFrame ∧ (endApplied g s).fdatCopy = s.fdatCopy ∧
    (endApplied g s).seedAttempts = s.seedAttempts ∧
    (endApplied g s).groupAttempts = s.groupAttempts ∧
    (endApplied g s).answerAttempts = s.answerAttempts ∧
    (endApplied g s).seedTimer = s.seedTimer ∧ (endApplied g s).requestTimer = s.requestTimer ∧
    (endApplied g s).groupTimer = s.groupTimer ∧ (endApplied g s).answerTimer = s.answerTimer ∧
    (endApplied g s).yield = s.yield ∧ (endApplied g s).mismatch = s.mismatch ∧
    (endApplied g s).framing = s.framing ∧ (endApplied g s).rxFrame = s.rxFrame ∧
    (endApplied g s).windowDecision = s.windowDecision ∧
    (endApplied g s).groupBuffer = s.groupBuffer ∧
    (endApplied g s).takeAbandoned = s.takeAbandoned ∧ (endApplied g s).station = s.station ∧
    (endApplied g s).requests = s.requests ∧ (endApplied g s).answers = s.answers ∧
    (endApplied g s).seedSlot = s.seedSlot ∧
    (endApplied g s).teardownPending = s.teardownPending ∧
    (endApplied g s).latches = (causeSet s.latches .done true) ∧
    (endApplied g s).details = (causeSet s.details .done (groupStatusCode g)) ∧
    (endApplied g s).attnMode = s.attnMode ∧ (endApplied g s).attnMask = s.attnMask ∧
    (endApplied g s).attn = (pinFor (causeSet s.latches .done true) s.attnMask) := by
  and_intros <;> rfl

/-- Every field after `reportIdle`. -/
@[simp] theorem reportIdle_fields (s : State) :
    (reportIdle s).pending = s.pending ∧ (reportIdle s).resetAsserted = s.resetAsserted ∧
    (reportIdle s).powerHold = s.powerHold ∧ (reportIdle s).txd = s.txd ∧
    (reportIdle s).dataOut = s.dataOut ∧ (reportIdle s).config = s.config ∧
    (reportIdle s).lock = s.lock ∧ (reportIdle s).port = s.port ∧
    (reportIdle s).table = s.table ∧ (reportIdle s).unknownChunks = s.unknownChunks ∧
    (reportIdle s).items = s.items ∧ (reportIdle s).appliedSinceMark = s.appliedSinceMark ∧
    (reportIdle s).pendingClear = s.pendingClear ∧
    (reportIdle s).lastDivergence = s.lastDivergence ∧
    (reportIdle s).discardedOwn = s.discardedOwn ∧ (reportIdle s).running = s.running ∧
    (reportIdle s).runningDiscarded = s.runningDiscarded ∧
    (reportIdle s).fdatClaim = s.fdatClaim ∧ (reportIdle s).portClaim = s.portClaim ∧
    (reportIdle s).staging = s.staging ∧ (reportIdle s).committed = s.committed ∧
    (reportIdle s).applyPending = s.applyPending ∧ (reportIdle s).results = s.results ∧
    (reportIdle s).needed = s.needed ∧ (reportIdle s).link = s.link ∧
    (reportIdle s).txFrame = s.txFrame ∧ (reportIdle s).fdatCopy = s.fdatCopy ∧
    (reportIdle s).seedAttempts = s.seedAttempts ∧
    (reportIdle s).groupAttempts = s.groupAttempts ∧
    (reportIdle s).answerAttempts = s.answerAttempts ∧ (reportIdle s).seedTimer = s.seedTimer ∧
    (reportIdle s).requestTimer = s.requestTimer ∧ (reportIdle s).groupTimer = s.groupTimer ∧
    (reportIdle s).answerTimer = s.answerTimer ∧ (reportIdle s).yield = false ∧
    (reportIdle s).mismatch = s.mismatch ∧ (reportIdle s).framing = s.framing ∧
    (reportIdle s).rxFrame = s.rxFrame ∧ (reportIdle s).windowDecision = s.windowDecision ∧
    (reportIdle s).groupBuffer = s.groupBuffer ∧ (reportIdle s).takeAbandoned = false ∧
    (reportIdle s).station = s.station ∧ (reportIdle s).requests = s.requests ∧
    (reportIdle s).answers = s.answers ∧ (reportIdle s).seedSlot = s.seedSlot ∧
    (reportIdle s).teardownPending = s.teardownPending ∧ (reportIdle s).latches = s.latches ∧
    (reportIdle s).details = s.details ∧ (reportIdle s).attnMode = s.attnMode ∧
    (reportIdle s).attnMask = s.attnMask ∧ (reportIdle s).attn = s.attn := by
  and_intros <;> rfl

/-- Every field after `passHoldLimit`. -/
@[simp] theorem passHoldLimit_fields (s : State) :
    (passHoldLimit s).pending = s.pending ∧ (passHoldLimit s).resetAsserted = s.resetAsserted ∧
    (passHoldLimit s).powerHold = s.powerHold ∧ (passHoldLimit s).txd = s.txd ∧
    (passHoldLimit s).dataOut = s.dataOut ∧ (passHoldLimit s).config = s.config ∧
    (passHoldLimit s).lock = s.lock ∧ (passHoldLimit s).port = s.port ∧
    (passHoldLimit s).table = s.table ∧ (passHoldLimit s).unknownChunks = s.unknownChunks ∧
    (passHoldLimit s).items = s.items ∧ (passHoldLimit s).appliedSinceMark = s.appliedSinceMark ∧
    (passHoldLimit s).pendingClear = s.pendingClear ∧
    (passHoldLimit s).lastDivergence = s.lastDivergence ∧
    (passHoldLimit s).discardedOwn = s.discardedOwn ∧ (passHoldLimit s).running = s.running ∧
    (passHoldLimit s).runningDiscarded = s.runningDiscarded ∧
    (passHoldLimit s).fdatClaim = s.fdatClaim ∧ (passHoldLimit s).portClaim = s.portClaim ∧
    (passHoldLimit s).staging = s.staging ∧ (passHoldLimit s).committed = s.committed ∧
    (passHoldLimit s).applyPending = s.applyPending ∧ (passHoldLimit s).results = s.results ∧
    (passHoldLimit s).needed = s.needed ∧ (passHoldLimit s).link = s.link ∧
    (passHoldLimit s).txFrame = s.txFrame ∧ (passHoldLimit s).fdatCopy = s.fdatCopy ∧
    (passHoldLimit s).seedAttempts = s.seedAttempts ∧
    (passHoldLimit s).groupAttempts = s.groupAttempts ∧
    (passHoldLimit s).answerAttempts = s.answerAttempts ∧
    (passHoldLimit s).seedTimer = s.seedTimer ∧ (passHoldLimit s).requestTimer = s.requestTimer ∧
    (passHoldLimit s).groupTimer = s.groupTimer ∧ (passHoldLimit s).answerTimer = s.answerTimer ∧
    (passHoldLimit s).yield = s.yield ∧ (passHoldLimit s).mismatch = s.mismatch ∧
    (passHoldLimit s).framing = (.gap true) ∧ (passHoldLimit s).rxFrame = s.rxFrame ∧
    (passHoldLimit s).windowDecision = s.windowDecision ∧ (passHoldLimit s).groupBuffer = none ∧
    (passHoldLimit s).takeAbandoned = s.takeAbandoned ∧ (passHoldLimit s).station = s.station ∧
    (passHoldLimit s).requests = s.requests ∧ (passHoldLimit s).answers = s.answers ∧
    (passHoldLimit s).seedSlot = s.seedSlot ∧
    (passHoldLimit s).teardownPending = s.teardownPending ∧
    (passHoldLimit s).latches = s.latches ∧ (passHoldLimit s).details = s.details ∧
    (passHoldLimit s).attnMode = s.attnMode ∧ (passHoldLimit s).attnMask = s.attnMask ∧
    (passHoldLimit s).attn = s.attn := by
  and_intros <;> rfl

/-- Every field after `linkOff`. -/
@[simp] theorem linkOff_fields (s : State) :
    (linkOff s).pending = s.pending ∧ (linkOff s).resetAsserted = s.resetAsserted ∧
    (linkOff s).powerHold = s.powerHold ∧ (linkOff s).txd = [.recessive] ∧
    (linkOff s).dataOut = s.dataOut ∧ (linkOff s).config = s.config ∧ (linkOff s).lock = s.lock ∧
    (linkOff s).port = s.port ∧ (linkOff s).table = s.table ∧
    (linkOff s).unknownChunks = s.unknownChunks ∧ (linkOff s).items = s.items ∧
    (linkOff s).appliedSinceMark = s.appliedSinceMark ∧
    (linkOff s).pendingClear = s.pendingClear ∧ (linkOff s).lastDivergence = s.lastDivergence ∧
    (linkOff s).discardedOwn = s.discardedOwn ∧ (linkOff s).running = s.running ∧
    (linkOff s).fdatClaim = none ∧ (linkOff s).portClaim = s.portClaim ∧
    (linkOff s).staging = s.staging ∧ (linkOff s).committed = s.committed ∧
    (linkOff s).applyPending = s.applyPending ∧ (linkOff s).results = s.results ∧
    (linkOff s).needed = s.needed ∧ (linkOff s).link = .off ∧ (linkOff s).txFrame = none ∧
    (linkOff s).fdatCopy = none ∧ (linkOff s).seedAttempts = 0 ∧ (linkOff s).groupAttempts = 0 ∧
    (linkOff s).answerAttempts = 0 ∧ (linkOff s).seedTimer = none ∧
    (linkOff s).requestTimer = none ∧ (linkOff s).groupTimer = none ∧
    (linkOff s).answerTimer = none ∧ (linkOff s).yield = false ∧
    (linkOff s).mismatch = s.mismatch ∧ (linkOff s).framing = .off ∧ (linkOff s).rxFrame = none ∧
    (linkOff s).windowDecision = none ∧ (linkOff s).groupBuffer = none ∧
    (linkOff s).takeAbandoned = false ∧ (linkOff s).station = s.station ∧
    (linkOff s).requests = s.requests ∧ (linkOff s).answers = s.answers ∧
    (linkOff s).seedSlot = s.seedSlot ∧ (linkOff s).teardownPending = s.teardownPending ∧
    (linkOff s).latches = s.latches ∧ (linkOff s).details = s.details ∧
    (linkOff s).attnMode = s.attnMode ∧ (linkOff s).attnMask = s.attnMask ∧
    (linkOff s).attn = s.attn := by
  and_intros <;> rfl

/-- Every field after `removeHead`. -/
@[simp] theorem removeHead_fields (s : State) :
    (removeHead s).pending = s.pending ∧ (removeHead s).resetAsserted = s.resetAsserted ∧
    (removeHead s).powerHold = s.powerHold ∧ (removeHead s).txd = s.txd ∧
    (removeHead s).dataOut = s.dataOut ∧ (removeHead s).config = s.config ∧
    (removeHead s).lock = s.lock ∧ (removeHead s).port = s.port ∧
    (removeHead s).table = s.table ∧ (removeHead s).unknownChunks = s.unknownChunks ∧
    (removeHead s).items = s.items.tail ∧
    (removeHead s).appliedSinceMark = (if s.framing = .taking then s.appliedSinceMark + 1 else s.appliedSinceMark) ∧
    (removeHead s).pendingClear = (s.pendingClear.map (· - 1)) ∧
    (removeHead s).lastDivergence = s.lastDivergence ∧
    (removeHead s).discardedOwn = s.discardedOwn ∧ (removeHead s).running = s.running ∧
    (removeHead s).runningDiscarded = s.runningDiscarded ∧
    (removeHead s).fdatClaim = s.fdatClaim ∧ (removeHead s).portClaim = s.portClaim ∧
    (removeHead s).staging = s.staging ∧ (removeHead s).committed = s.committed ∧
    (removeHead s).applyPending = s.applyPending ∧ (removeHead s).results = s.results ∧
    (removeHead s).needed = s.needed ∧ (removeHead s).link = s.link ∧
    (removeHead s).txFrame = s.txFrame ∧ (removeHead s).fdatCopy = s.fdatCopy ∧
    (removeHead s).seedAttempts = s.seedAttempts ∧
    (removeHead s).groupAttempts = s.groupAttempts ∧
    (removeHead s).answerAttempts = s.answerAttempts ∧ (removeHead s).seedTimer = s.seedTimer ∧
    (removeHead s).requestTimer = s.requestTimer ∧ (removeHead s).groupTimer = s.groupTimer ∧
    (removeHead s).answerTimer = s.answerTimer ∧ (removeHead s).yield = s.yield ∧
    (removeHead s).mismatch = s.mismatch ∧ (removeHead s).framing = s.framing ∧
    (removeHead s).rxFrame = s.rxFrame ∧ (removeHead s).windowDecision = s.windowDecision ∧
    (removeHead s).groupBuffer = s.groupBuffer ∧ (removeHead s).takeAbandoned = s.takeAbandoned ∧
    (removeHead s).station = s.station ∧ (removeHead s).requests = s.requests ∧
    (removeHead s).answers = s.answers ∧ (removeHead s).seedSlot = s.seedSlot ∧
    (removeHead s).teardownPending = s.teardownPending ∧ (removeHead s).latches = s.latches ∧
    (removeHead s).details = s.details ∧ (removeHead s).attnMode = s.attnMode ∧
    (removeHead s).attnMask = s.attnMask ∧ (removeHead s).attn = s.attn := by
  and_intros <;> rfl

/-- Every field after `writeResults`. -/
@[simp] theorem writeResults_fields (g : GroupStatus) (r : List ResultRecord) (s : State) :
    (writeResults g r s).pending = s.pending ∧
    (writeResults g r s).resetAsserted = s.resetAsserted ∧
    (writeResults g r s).powerHold = s.powerHold ∧ (writeResults g r s).txd = s.txd ∧
    (writeResults g r s).dataOut = s.dataOut ∧ (writeResults g r s).config = s.config ∧
    (writeResults g r s).lock = s.lock ∧ (writeResults g r s).port = s.port ∧
    (writeResults g r s).table = s.table ∧ (writeResults g r s).unknownChunks = s.unknownChunks ∧
    (writeResults g r s).items = s.items ∧
    (writeResults g r s).appliedSinceMark = s.appliedSinceMark ∧
    (writeResults g r s).pendingClear = s.pendingClear ∧
    (writeResults g r s).lastDivergence = s.lastDivergence ∧
    (writeResults g r s).discardedOwn = s.discardedOwn ∧
    (writeResults g r s).running = s.running ∧
    (writeResults g r s).runningDiscarded = s.runningDiscarded ∧
    (writeResults g r s).fdatClaim = s.fdatClaim ∧ (writeResults g r s).portClaim = s.portClaim ∧
    (writeResults g r s).staging = s.staging ∧ (writeResults g r s).committed = s.committed ∧
    (writeResults g r s).applyPending = s.applyPending ∧
    (writeResults g r s).results = { s.results with status := g, records := r } ∧
    (writeResults g r s).needed = s.needed ∧ (writeResults g r s).link = s.link ∧
    (writeResults g r s).txFrame = s.txFrame ∧ (writeResults g r s).fdatCopy = s.fdatCopy ∧
    (writeResults g r s).seedAttempts = s.seedAttempts ∧
    (writeResults g r s).groupAttempts = s.groupAttempts ∧
    (writeResults g r s).answerAttempts = s.answerAttempts ∧
    (writeResults g r s).seedTimer = s.seedTimer ∧
    (writeResults g r s).requestTimer = s.requestTimer ∧
    (writeResults g r s).groupTimer = s.groupTimer ∧
    (writeResults g r s).answerTimer = s.answerTimer ∧ (writeResults g r s).yield = s.yield ∧
    (writeResults g r s).mismatch = s.mismatch ∧ (writeResults g r s).framing = s.framing ∧
    (writeResults g r s).rxFrame = s.rxFrame ∧
    (writeResults g r s).windowDecision = s.windowDecision ∧
    (writeResults g r s).groupBuffer = s.groupBuffer ∧
    (writeResults g r s).takeAbandoned = s.takeAbandoned ∧
    (writeResults g r s).station = s.station ∧ (writeResults g r s).requests = s.requests ∧
    (writeResults g r s).answers = s.answers ∧ (writeResults g r s).seedSlot = s.seedSlot ∧
    (writeResults g r s).teardownPending = s.teardownPending ∧
    (writeResults g r s).latches = s.latches ∧ (writeResults g r s).details = s.details ∧
    (writeResults g r s).attnMode = s.attnMode ∧ (writeResults g r s).attnMask = s.attnMask ∧
    (writeResults g r s).attn = s.attn := by
  and_intros <;> rfl

/-- Every field after `clearDone`. -/
@[simp] theorem clearDone_fields (s : State) :
    (clearDone s).pending = s.pending ∧ (clearDone s).resetAsserted = s.resetAsserted ∧
    (clearDone s).powerHold = s.powerHold ∧ (clearDone s).txd = s.txd ∧
    (clearDone s).dataOut = s.dataOut ∧ (clearDone s).config = s.config ∧
    (clearDone s).lock = s.lock ∧ (clearDone s).port = s.port ∧ (clearDone s).table = s.table ∧
    (clearDone s).unknownChunks = s.unknownChunks ∧ (clearDone s).items = s.items ∧
    (clearDone s).appliedSinceMark = s.appliedSinceMark ∧
    (clearDone s).pendingClear = (if s.pendingClear = some 0 then none else s.pendingClear) ∧
    (clearDone s).lastDivergence = s.lastDivergence ∧
    (clearDone s).discardedOwn = s.discardedOwn ∧ (clearDone s).running = s.running ∧
    (clearDone s).runningDiscarded = s.runningDiscarded ∧ (clearDone s).fdatClaim = s.fdatClaim ∧
    (clearDone s).portClaim = s.portClaim ∧ (clearDone s).staging = s.staging ∧
    (clearDone s).committed = s.committed ∧ (clearDone s).applyPending = s.applyPending ∧
    (clearDone s).results = s.results ∧ (clearDone s).needed = s.needed ∧
    (clearDone s).link = s.link ∧ (clearDone s).txFrame = s.txFrame ∧
    (clearDone s).fdatCopy = s.fdatCopy ∧ (clearDone s).seedAttempts = s.seedAttempts ∧
    (clearDone s).groupAttempts = s.groupAttempts ∧
    (clearDone s).answerAttempts = s.answerAttempts ∧ (clearDone s).seedTimer = s.seedTimer ∧
    (clearDone s).requestTimer = s.requestTimer ∧ (clearDone s).groupTimer = s.groupTimer ∧
    (clearDone s).answerTimer = s.answerTimer ∧ (clearDone s).yield = s.yield ∧
    (clearDone s).mismatch = s.mismatch ∧ (clearDone s).framing = s.framing ∧
    (clearDone s).rxFrame = s.rxFrame ∧ (clearDone s).windowDecision = s.windowDecision ∧
    (clearDone s).groupBuffer = s.groupBuffer ∧ (clearDone s).takeAbandoned = s.takeAbandoned ∧
    (clearDone s).station = s.station ∧ (clearDone s).requests = s.requests ∧
    (clearDone s).answers = s.answers ∧ (clearDone s).seedSlot = s.seedSlot ∧
    (clearDone s).teardownPending = s.teardownPending ∧ (clearDone s).latches = s.latches ∧
    (clearDone s).details = s.details ∧ (clearDone s).attnMode = s.attnMode ∧
    (clearDone s).attnMask = s.attnMask ∧ (clearDone s).attn = s.attn := by
  and_intros <;> rfl

/-- Every field after `undriven`. -/
@[simp] theorem undriven_fields (s : State) :
    (undriven s).pending = s.pending ∧ (undriven s).resetAsserted = s.resetAsserted ∧
    (undriven s).powerHold = s.powerHold ∧ (undriven s).txd = [.recessive] ∧
    (undriven s).dataOut = s.dataOut ∧ (undriven s).config = s.config ∧
    (undriven s).lock = s.lock ∧ (undriven s).port = s.port ∧ (undriven s).table = s.table ∧
    (undriven s).unknownChunks = s.unknownChunks ∧ (undriven s).items = s.items ∧
    (undriven s).appliedSinceMark = s.appliedSinceMark ∧
    (undriven s).pendingClear = s.pendingClear ∧ (undriven s).lastDivergence = s.lastDivergence ∧
    (undriven s).discardedOwn = s.discardedOwn ∧ (undriven s).running = s.running ∧
    (undriven s).runningDiscarded = s.runningDiscarded ∧ (undriven s).fdatClaim = s.fdatClaim ∧
    (undriven s).portClaim = s.portClaim ∧ (undriven s).staging = s.staging ∧
    (undriven s).committed = s.committed ∧ (undriven s).applyPending = s.applyPending ∧
    (undriven s).results = s.results ∧ (undriven s).needed = s.needed ∧
    (undriven s).link = s.link ∧ (undriven s).txFrame = s.txFrame ∧
    (undriven s).fdatCopy = s.fdatCopy ∧ (undriven s).seedAttempts = s.seedAttempts ∧
    (undriven s).groupAttempts = s.groupAttempts ∧
    (undriven s).answerAttempts = s.answerAttempts ∧ (undriven s).seedTimer = s.seedTimer ∧
    (undriven s).requestTimer = s.requestTimer ∧ (undriven s).groupTimer = s.groupTimer ∧
    (undriven s).answerTimer = s.answerTimer ∧ (undriven s).yield = s.yield ∧
    (undriven s).mismatch = s.mismatch ∧ (undriven s).framing = s.framing ∧
    (undriven s).rxFrame = s.rxFrame ∧ (undriven s).windowDecision = s.windowDecision ∧
    (undriven s).groupBuffer = s.groupBuffer ∧ (undriven s).takeAbandoned = s.takeAbandoned ∧
    (undriven s).station = s.station ∧ (undriven s).requests = s.requests ∧
    (undriven s).answers = s.answers ∧ (undriven s).seedSlot = s.seedSlot ∧
    (undriven s).teardownPending = s.teardownPending ∧ (undriven s).latches = s.latches ∧
    (undriven s).details = s.details ∧ (undriven s).attnMode = s.attnMode ∧
    (undriven s).attnMask = s.attnMask ∧ (undriven s).attn = s.attn := by
  and_intros <;> rfl

/-- Every field after `stopDriving`. -/
@[simp] theorem stopDriving_fields (l : List Level) (s : State) :
    (stopDriving l s).pending = s.pending ∧ (stopDriving l s).resetAsserted = s.resetAsserted ∧
    (stopDriving l s).powerHold = s.powerHold ∧ (stopDriving l s).txd = (l ++ [.recessive]) ∧
    (stopDriving l s).dataOut = s.dataOut ∧ (stopDriving l s).config = s.config ∧
    (stopDriving l s).lock = s.lock ∧ (stopDriving l s).port = s.port ∧
    (stopDriving l s).table = s.table ∧ (stopDriving l s).unknownChunks = s.unknownChunks ∧
    (stopDriving l s).items = s.items ∧ (stopDriving l s).appliedSinceMark = s.appliedSinceMark ∧
    (stopDriving l s).pendingClear = s.pendingClear ∧
    (stopDriving l s).lastDivergence = s.lastDivergence ∧
    (stopDriving l s).discardedOwn = s.discardedOwn ∧ (stopDriving l s).running = s.running ∧
    (stopDriving l s).runningDiscarded = s.runningDiscarded ∧
    (stopDriving l s).fdatClaim = s.fdatClaim ∧ (stopDriving l s).portClaim = s.portClaim ∧
    (stopDriving l s).staging = s.staging ∧ (stopDriving l s).committed = s.committed ∧
    (stopDriving l s).applyPending = s.applyPending ∧ (stopDriving l s).results = s.results ∧
    (stopDriving l s).needed = s.needed ∧ (stopDriving l s).link = s.link ∧
    (stopDriving l s).txFrame = s.txFrame ∧ (stopDriving l s).fdatCopy = s.fdatCopy ∧
    (stopDriving l s).seedAttempts = s.seedAttempts ∧
    (stopDriving l s).groupAttempts = s.groupAttempts ∧
    (stopDriving l s).answerAttempts = s.answerAttempts ∧
    (stopDriving l s).seedTimer = s.seedTimer ∧ (stopDriving l s).requestTimer = s.requestTimer ∧
    (stopDriving l s).groupTimer = s.groupTimer ∧ (stopDriving l s).answerTimer = s.answerTimer ∧
    (stopDriving l s).yield = s.yield ∧ (stopDriving l s).mismatch = s.mismatch ∧
    (stopDriving l s).framing = s.framing ∧ (stopDriving l s).rxFrame = s.rxFrame ∧
    (stopDriving l s).windowDecision = s.windowDecision ∧
    (stopDriving l s).groupBuffer = s.groupBuffer ∧
    (stopDriving l s).takeAbandoned = s.takeAbandoned ∧ (stopDriving l s).station = s.station ∧
    (stopDriving l s).requests = s.requests ∧ (stopDriving l s).answers = s.answers ∧
    (stopDriving l s).seedSlot = s.seedSlot ∧
    (stopDriving l s).teardownPending = s.teardownPending ∧
    (stopDriving l s).latches = s.latches ∧ (stopDriving l s).details = s.details ∧
    (stopDriving l s).attnMode = s.attnMode ∧ (stopDriving l s).attnMask = s.attnMask ∧
    (stopDriving l s).attn = s.attn := by
  and_intros <;> rfl

/-- Every field after `appendItem`. -/
@[simp] theorem appendItem_fields (i : Item) (s : State) :
    (appendItem i s).pending = s.pending ∧ (appendItem i s).resetAsserted = s.resetAsserted ∧
    (appendItem i s).powerHold = s.powerHold ∧ (appendItem i s).txd = s.txd ∧
    (appendItem i s).dataOut = s.dataOut ∧ (appendItem i s).config = s.config ∧
    (appendItem i s).lock = s.lock ∧ (appendItem i s).port = s.port ∧
    (appendItem i s).table = s.table ∧ (appendItem i s).unknownChunks = s.unknownChunks ∧
    (appendItem i s).items = (s.items ++ [i]) ∧
    (appendItem i s).appliedSinceMark = s.appliedSinceMark ∧
    (appendItem i s).pendingClear = s.pendingClear ∧
    (appendItem i s).lastDivergence = s.lastDivergence ∧
    (appendItem i s).discardedOwn = s.discardedOwn ∧ (appendItem i s).running = s.running ∧
    (appendItem i s).runningDiscarded = s.runningDiscarded ∧
    (appendItem i s).fdatClaim = s.fdatClaim ∧ (appendItem i s).portClaim = s.portClaim ∧
    (appendItem i s).staging = s.staging ∧ (appendItem i s).committed = s.committed ∧
    (appendItem i s).applyPending = s.applyPending ∧ (appendItem i s).results = s.results ∧
    (appendItem i s).needed = s.needed ∧ (appendItem i s).link = s.link ∧
    (appendItem i s).txFrame = s.txFrame ∧ (appendItem i s).fdatCopy = s.fdatCopy ∧
    (appendItem i s).seedAttempts = s.seedAttempts ∧
    (appendItem i s).groupAttempts = s.groupAttempts ∧
    (appendItem i s).answerAttempts = s.answerAttempts ∧
    (appendItem i s).seedTimer = s.seedTimer ∧ (appendItem i s).requestTimer = s.requestTimer ∧
    (appendItem i s).groupTimer = s.groupTimer ∧ (appendItem i s).answerTimer = s.answerTimer ∧
    (appendItem i s).yield = s.yield ∧ (appendItem i s).mismatch = s.mismatch ∧
    (appendItem i s).framing = s.framing ∧ (appendItem i s).rxFrame = s.rxFrame ∧
    (appendItem i s).windowDecision = s.windowDecision ∧
    (appendItem i s).groupBuffer = s.groupBuffer ∧
    (appendItem i s).takeAbandoned = s.takeAbandoned ∧ (appendItem i s).station = s.station ∧
    (appendItem i s).requests = s.requests ∧ (appendItem i s).answers = s.answers ∧
    (appendItem i s).seedSlot = s.seedSlot ∧
    (appendItem i s).teardownPending = s.teardownPending ∧ (appendItem i s).latches = s.latches ∧
    (appendItem i s).details = s.details ∧ (appendItem i s).attnMode = s.attnMode ∧
    (appendItem i s).attnMask = s.attnMask ∧ (appendItem i s).attn = s.attn := by
  and_intros <;> rfl

/-- Every field after `driveStartMark`. -/
@[simp] theorem driveStartMark_fields (l : Link) (f : TxFrame) (s : State) :
    (driveStartMark l f s).pending = s.pending ∧
    (driveStartMark l f s).resetAsserted = s.resetAsserted ∧
    (driveStartMark l f s).powerHold = s.powerHold ∧ (driveStartMark l f s).txd = [.dominant] ∧
    (driveStartMark l f s).dataOut = s.dataOut ∧ (driveStartMark l f s).config = s.config ∧
    (driveStartMark l f s).lock = s.lock ∧ (driveStartMark l f s).port = s.port ∧
    (driveStartMark l f s).table = s.table ∧
    (driveStartMark l f s).unknownChunks = s.unknownChunks ∧
    (driveStartMark l f s).items = s.items ∧ (driveStartMark l f s).appliedSinceMark = 0 ∧
    (driveStartMark l f s).pendingClear = s.pendingClear ∧
    (driveStartMark l f s).lastDivergence = s.lastDivergence ∧
    (driveStartMark l f s).discardedOwn = s.discardedOwn ∧
    (driveStartMark l f s).running = s.running ∧
    (driveStartMark l f s).runningDiscarded = s.runningDiscarded ∧
    (driveStartMark l f s).fdatClaim = s.fdatClaim ∧
    (driveStartMark l f s).portClaim = s.portClaim ∧ (driveStartMark l f s).staging = s.staging ∧
    (driveStartMark l f s).committed = s.committed ∧
    (driveStartMark l f s).applyPending = s.applyPending ∧
    (driveStartMark l f s).results = s.results ∧ (driveStartMark l f s).needed = s.needed ∧
    (driveStartMark l f s).link = l ∧ (driveStartMark l f s).txFrame = (some f) ∧
    (driveStartMark l f s).fdatCopy = s.fdatCopy ∧
    (driveStartMark l f s).seedAttempts = s.seedAttempts ∧
    (driveStartMark l f s).groupAttempts = s.groupAttempts ∧
    (driveStartMark l f s).answerAttempts = s.answerAttempts ∧
    (driveStartMark l f s).seedTimer = s.seedTimer ∧
    (driveStartMark l f s).requestTimer = s.requestTimer ∧
    (driveStartMark l f s).groupTimer = s.groupTimer ∧
    (driveStartMark l f s).answerTimer = s.answerTimer ∧ (driveStartMark l f s).yield = s.yield ∧
    (driveStartMark l f s).mismatch = s.mismatch ∧ (driveStartMark l f s).framing = .taking ∧
    (driveStartMark l f s).rxFrame = (some { own := true, verdict := none }) ∧
    (driveStartMark l f s).windowDecision = none ∧
    (driveStartMark l f s).groupBuffer = s.groupBuffer ∧
    (driveStartMark l f s).takeAbandoned = s.takeAbandoned ∧
    (driveStartMark l f s).station = s.station ∧ (driveStartMark l f s).requests = s.requests ∧
    (driveStartMark l f s).answers = s.answers ∧ (driveStartMark l f s).seedSlot = s.seedSlot ∧
    (driveStartMark l f s).teardownPending = s.teardownPending ∧
    (driveStartMark l f s).latches = s.latches ∧ (driveStartMark l f s).details = s.details ∧
    (driveStartMark l f s).attnMode = s.attnMode ∧ (driveStartMark l f s).attnMask = s.attnMask ∧
    (driveStartMark l f s).attn = s.attn := by
  and_intros <;> rfl

/-- Every field after `abandonFrame`. -/
@[simp] theorem abandonFrame_fields (s : State) :
    (abandonFrame s).pending = s.pending ∧ (abandonFrame s).resetAsserted = s.resetAsserted ∧
    (abandonFrame s).powerHold = s.powerHold ∧ (abandonFrame s).txd = [.recessive] ∧
    (abandonFrame s).dataOut = s.dataOut ∧ (abandonFrame s).config = s.config ∧
    (abandonFrame s).lock = s.lock ∧ (abandonFrame s).port = s.port ∧
    (abandonFrame s).table = s.table ∧ (abandonFrame s).unknownChunks = s.unknownChunks ∧
    (abandonFrame s).items = s.items ∧ (abandonFrame s).appliedSinceMark = s.appliedSinceMark ∧
    (abandonFrame s).pendingClear = s.pendingClear ∧
    (abandonFrame s).lastDivergence = s.lastDivergence ∧
    (abandonFrame s).discardedOwn = s.discardedOwn ∧ (abandonFrame s).running = s.running ∧
    (abandonFrame s).runningDiscarded = s.runningDiscarded ∧
    (abandonFrame s).fdatClaim = s.fdatClaim ∧ (abandonFrame s).portClaim = s.portClaim ∧
    (abandonFrame s).staging = s.staging ∧ (abandonFrame s).committed = s.committed ∧
    (abandonFrame s).applyPending = s.applyPending ∧ (abandonFrame s).results = s.results ∧
    (abandonFrame s).needed = s.needed ∧ (abandonFrame s).link = .listen ∧
    (abandonFrame s).txFrame = none ∧ (abandonFrame s).fdatCopy = s.fdatCopy ∧
    (abandonFrame s).seedAttempts = s.seedAttempts ∧
    (abandonFrame s).groupAttempts = s.groupAttempts ∧
    (abandonFrame s).answerAttempts = s.answerAttempts ∧
    (abandonFrame s).seedTimer = s.seedTimer ∧ (abandonFrame s).requestTimer = s.requestTimer ∧
    (abandonFrame s).groupTimer = s.groupTimer ∧ (abandonFrame s).answerTimer = s.answerTimer ∧
    (abandonFrame s).yield = s.yield ∧ (abandonFrame s).mismatch = s.mismatch ∧
    (abandonFrame s).framing = (.search 0) ∧ (abandonFrame s).rxFrame = none ∧
    (abandonFrame s).windowDecision = none ∧ (abandonFrame s).groupBuffer = s.groupBuffer ∧
    (abandonFrame s).takeAbandoned = true ∧ (abandonFrame s).station = s.station ∧
    (abandonFrame s).requests = s.requests ∧ (abandonFrame s).answers = s.answers ∧
    (abandonFrame s).seedSlot = s.seedSlot ∧
    (abandonFrame s).teardownPending = s.teardownPending ∧ (abandonFrame s).latches = s.latches ∧
    (abandonFrame s).details = s.details ∧ (abandonFrame s).attnMode = s.attnMode ∧
    (abandonFrame s).attnMask = s.attnMask ∧ (abandonFrame s).attn = s.attn := by
  and_intros <;> rfl

/-- Every field after `flushPort`. -/
@[simp] theorem flushPort_fields (s : State) :
    (flushPort s).pending = s.pending ∧ (flushPort s).resetAsserted = s.resetAsserted ∧
    (flushPort s).powerHold = s.powerHold ∧ (flushPort s).txd = s.txd ∧
    (flushPort s).dataOut = s.dataOut ∧ (flushPort s).config = s.config ∧
    (flushPort s).lock = s.lock ∧ (flushPort s).port = .idle ∧ (flushPort s).table = s.table ∧
    (flushPort s).unknownChunks = s.unknownChunks ∧ (flushPort s).items = s.items ∧
    (flushPort s).appliedSinceMark = s.appliedSinceMark ∧
    (flushPort s).pendingClear = s.pendingClear ∧
    (flushPort s).lastDivergence = s.lastDivergence ∧
    (flushPort s).discardedOwn = s.discardedOwn ∧ (flushPort s).running = s.running ∧
    (flushPort s).runningDiscarded = (s.runningDiscarded || portRunning s) ∧
    (flushPort s).fdatClaim = s.fdatClaim ∧ (flushPort s).portClaim = none ∧
    (flushPort s).staging = s.staging ∧ (flushPort s).committed = s.committed ∧
    (flushPort s).applyPending = s.applyPending ∧ (flushPort s).results = s.results ∧
    (flushPort s).needed = s.needed ∧ (flushPort s).link = s.link ∧
    (flushPort s).txFrame = s.txFrame ∧ (flushPort s).fdatCopy = s.fdatCopy ∧
    (flushPort s).seedAttempts = s.seedAttempts ∧ (flushPort s).groupAttempts = s.groupAttempts ∧
    (flushPort s).answerAttempts = s.answerAttempts ∧ (flushPort s).seedTimer = s.seedTimer ∧
    (flushPort s).requestTimer = s.requestTimer ∧ (flushPort s).groupTimer = s.groupTimer ∧
    (flushPort s).answerTimer = s.answerTimer ∧ (flushPort s).yield = s.yield ∧
    (flushPort s).mismatch = s.mismatch ∧ (flushPort s).framing = s.framing ∧
    (flushPort s).rxFrame = s.rxFrame ∧ (flushPort s).windowDecision = s.windowDecision ∧
    (flushPort s).groupBuffer = s.groupBuffer ∧ (flushPort s).takeAbandoned = s.takeAbandoned ∧
    (flushPort s).station = s.station ∧ (flushPort s).requests = s.requests ∧
    (flushPort s).answers = s.answers ∧ (flushPort s).seedSlot = s.seedSlot ∧
    (flushPort s).teardownPending = s.teardownPending ∧ (flushPort s).latches = s.latches ∧
    (flushPort s).details = s.details ∧ (flushPort s).attnMode = s.attnMode ∧
    (flushPort s).attnMask = s.attnMask ∧ (flushPort s).attn = s.attn := by
  and_intros <;> rfl

end Sys2Proof.Machine
end

