-- ==== Sys2Proof/Laws/Frames.lean ====
section
/-!
SUPPORT. Laws/Frames.lean: for each operation that branches, the fields it leaves unchanged in every
case and the fields it sets to the same value in every case.
-/
namespace Sys2Proof.Machine

/-- What `settle` leaves unchanged, and what it sets whatever the case. -/
@[simp] theorem settle_fields (s : State) :
    (settle s).pending = s.pending ∧ (settle s).resetAsserted = s.resetAsserted ∧
    (settle s).powerHold = s.powerHold ∧ (settle s).txd = s.txd ∧
    (settle s).dataOut = s.dataOut ∧ (settle s).config = s.config ∧ (settle s).lock = s.lock ∧
    (settle s).port = s.port ∧ (settle s).table = s.table ∧
    (settle s).unknownChunks = s.unknownChunks ∧ (settle s).items = s.items ∧
    (settle s).appliedSinceMark = s.appliedSinceMark ∧ (settle s).pendingClear = s.pendingClear ∧
    (settle s).lastDivergence = s.lastDivergence ∧ (settle s).discardedOwn = s.discardedOwn ∧
    (settle s).staging = s.staging ∧ (settle s).committed = s.committed ∧
    (settle s).applyPending = s.applyPending ∧ (settle s).results = s.results ∧
    (settle s).needed = s.needed ∧ (settle s).link = s.link ∧ (settle s).txFrame = s.txFrame ∧
    (settle s).fdatCopy = s.fdatCopy ∧ (settle s).seedAttempts = s.seedAttempts ∧
    (settle s).groupAttempts = s.groupAttempts ∧ (settle s).answerAttempts = s.answerAttempts ∧
    (settle s).seedTimer = s.seedTimer ∧ (settle s).requestTimer = s.requestTimer ∧
    (settle s).groupTimer = s.groupTimer ∧ (settle s).answerTimer = s.answerTimer ∧
    (settle s).yield = s.yield ∧ (settle s).mismatch = s.mismatch ∧
    (settle s).framing = s.framing ∧ (settle s).rxFrame = s.rxFrame ∧
    (settle s).windowDecision = s.windowDecision ∧ (settle s).groupBuffer = s.groupBuffer ∧
    (settle s).takeAbandoned = s.takeAbandoned ∧ (settle s).station = s.station ∧
    (settle s).requests = s.requests ∧ (settle s).answers = s.answers ∧
    (settle s).seedSlot = s.seedSlot ∧ (settle s).teardownPending = s.teardownPending ∧
    (settle s).latches = s.latches ∧ (settle s).details = s.details ∧
    (settle s).attnMode = s.attnMode ∧ (settle s).attnMask = s.attnMask ∧
    (settle s).attn = s.attn := by
  unfold settle; split
  · simp
  · split <;> simp

/-- What `completeWait` leaves unchanged, and what it sets whatever the case. -/
@[simp] theorem completeWait_fields (w : Wait) (c : Code) (s : State) :
    (completeWait w c s).pending = s.pending ∧
    (completeWait w c s).resetAsserted = s.resetAsserted ∧
    (completeWait w c s).powerHold = s.powerHold ∧ (completeWait w c s).txd = s.txd ∧
    (completeWait w c s).dataOut = s.dataOut ∧ (completeWait w c s).config = s.config ∧
    (completeWait w c s).lock = s.lock ∧
    (completeWait w c s).port = (if portWaits w s then portWithResult [codeByte c] s.port else s.port) ∧
    (completeWait w c s).table = s.table ∧ (completeWait w c s).unknownChunks = s.unknownChunks ∧
    (completeWait w c s).items = s.items ∧
    (completeWait w c s).appliedSinceMark = s.appliedSinceMark ∧
    (completeWait w c s).pendingClear = s.pendingClear ∧
    (completeWait w c s).lastDivergence = s.lastDivergence ∧
    (completeWait w c s).discardedOwn = s.discardedOwn ∧
    (completeWait w c s).running = s.running ∧
    (completeWait w c s).runningDiscarded = s.runningDiscarded ∧
    (completeWait w c s).fdatClaim = s.fdatClaim ∧ (completeWait w c s).portClaim = s.portClaim ∧
    (completeWait w c s).staging = s.staging ∧ (completeWait w c s).committed = s.committed ∧
    (completeWait w c s).applyPending = s.applyPending ∧
    (completeWait w c s).results = s.results ∧ (completeWait w c s).needed = s.needed ∧
    (completeWait w c s).link = s.link ∧ (completeWait w c s).txFrame = s.txFrame ∧
    (completeWait w c s).fdatCopy = s.fdatCopy ∧
    (completeWait w c s).seedAttempts = s.seedAttempts ∧
    (completeWait w c s).groupAttempts = s.groupAttempts ∧
    (completeWait w c s).answerAttempts = s.answerAttempts ∧
    (completeWait w c s).seedTimer = s.seedTimer ∧
    (completeWait w c s).requestTimer = s.requestTimer ∧
    (completeWait w c s).groupTimer = s.groupTimer ∧
    (completeWait w c s).answerTimer = s.answerTimer ∧ (completeWait w c s).yield = s.yield ∧
    (completeWait w c s).mismatch = s.mismatch ∧ (completeWait w c s).framing = s.framing ∧
    (completeWait w c s).rxFrame = s.rxFrame ∧
    (completeWait w c s).windowDecision = s.windowDecision ∧
    (completeWait w c s).groupBuffer = s.groupBuffer ∧
    (completeWait w c s).takeAbandoned = s.takeAbandoned ∧
    (completeWait w c s).station = s.station ∧ (completeWait w c s).requests = s.requests ∧
    (completeWait w c s).answers = s.answers ∧ (completeWait w c s).seedSlot = s.seedSlot ∧
    (completeWait w c s).teardownPending = s.teardownPending ∧
    (completeWait w c s).latches = s.latches ∧ (completeWait w c s).details = s.details ∧
    (completeWait w c s).attnMode = s.attnMode ∧ (completeWait w c s).attnMask = s.attnMask ∧
    (completeWait w c s).attn = s.attn := by
  unfold completeWait; split <;> simp [*]

/-- What `setAnswers` leaves unchanged, and what it sets whatever the case. -/
@[simp] theorem setAnswers_fields (l : List Chunk) (s : State) :
    (setAnswers l s).pending = s.pending ∧ (setAnswers l s).resetAsserted = s.resetAsserted ∧
    (setAnswers l s).powerHold = s.powerHold ∧ (setAnswers l s).txd = s.txd ∧
    (setAnswers l s).dataOut = s.dataOut ∧ (setAnswers l s).config = s.config ∧
    (setAnswers l s).lock = s.lock ∧ (setAnswers l s).port = s.port ∧
    (setAnswers l s).table = s.table ∧ (setAnswers l s).unknownChunks = s.unknownChunks ∧
    (setAnswers l s).items = s.items ∧ (setAnswers l s).appliedSinceMark = s.appliedSinceMark ∧
    (setAnswers l s).pendingClear = s.pendingClear ∧
    (setAnswers l s).lastDivergence = s.lastDivergence ∧
    (setAnswers l s).discardedOwn = s.discardedOwn ∧ (setAnswers l s).running = s.running ∧
    (setAnswers l s).runningDiscarded = s.runningDiscarded ∧
    (setAnswers l s).fdatClaim = s.fdatClaim ∧ (setAnswers l s).portClaim = s.portClaim ∧
    (setAnswers l s).staging = s.staging ∧ (setAnswers l s).committed = s.committed ∧
    (setAnswers l s).applyPending = s.applyPending ∧ (setAnswers l s).results = s.results ∧
    (setAnswers l s).needed = s.needed ∧ (setAnswers l s).link = s.link ∧
    (setAnswers l s).txFrame = s.txFrame ∧ (setAnswers l s).fdatCopy = s.fdatCopy ∧
    (setAnswers l s).seedAttempts = s.seedAttempts ∧
    (setAnswers l s).groupAttempts = s.groupAttempts ∧
    (setAnswers l s).answerAttempts = (if l.head? = s.answers.head? then s.answerAttempts else 0) ∧
    (setAnswers l s).seedTimer = s.seedTimer ∧ (setAnswers l s).requestTimer = s.requestTimer ∧
    (setAnswers l s).groupTimer = s.groupTimer ∧
    (setAnswers l s).answerTimer = (if l.head? = s.answers.head? then s.answerTimer else none) ∧
    (setAnswers l s).yield = s.yield ∧ (setAnswers l s).mismatch = s.mismatch ∧
    (setAnswers l s).framing = s.framing ∧ (setAnswers l s).rxFrame = s.rxFrame ∧
    (setAnswers l s).windowDecision = s.windowDecision ∧
    (setAnswers l s).groupBuffer = s.groupBuffer ∧
    (setAnswers l s).takeAbandoned = s.takeAbandoned ∧ (setAnswers l s).station = s.station ∧
    (setAnswers l s).requests = s.requests ∧ (setAnswers l s).answers = l ∧
    (setAnswers l s).seedSlot = s.seedSlot ∧
    (setAnswers l s).teardownPending = s.teardownPending ∧ (setAnswers l s).latches = s.latches ∧
    (setAnswers l s).details = s.details ∧ (setAnswers l s).attnMode = s.attnMode ∧
    (setAnswers l s).attnMask = s.attnMask ∧ (setAnswers l s).attn = s.attn := by
  unfold setAnswers; split <;> simp [*]

/-- What `emptySeedSlot` leaves unchanged, and what it sets whatever the case. -/
@[simp] theorem emptySeedSlot_fields (c : Code) (s : State) :
    (emptySeedSlot c s).pending = s.pending ∧
    (emptySeedSlot c s).resetAsserted = s.resetAsserted ∧
    (emptySeedSlot c s).powerHold = s.powerHold ∧ (emptySeedSlot c s).txd = s.txd ∧
    (emptySeedSlot c s).dataOut = s.dataOut ∧ (emptySeedSlot c s).config = s.config ∧
    (emptySeedSlot c s).lock = s.lock ∧
    (emptySeedSlot c s).port = (if portWaits .seedSlot s then portWithResult [codeByte c] s.port else s.port) ∧
    (emptySeedSlot c s).table = s.table ∧ (emptySeedSlot c s).unknownChunks = s.unknownChunks ∧
    (emptySeedSlot c s).items = s.items ∧
    (emptySeedSlot c s).appliedSinceMark = s.appliedSinceMark ∧
    (emptySeedSlot c s).pendingClear = s.pendingClear ∧
    (emptySeedSlot c s).lastDivergence = s.lastDivergence ∧
    (emptySeedSlot c s).discardedOwn = s.discardedOwn ∧ (emptySeedSlot c s).running = s.running ∧
    (emptySeedSlot c s).runningDiscarded = s.runningDiscarded ∧
    (emptySeedSlot c s).fdatClaim = s.fdatClaim ∧ (emptySeedSlot c s).portClaim = s.portClaim ∧
    (emptySeedSlot c s).staging = s.staging ∧ (emptySeedSlot c s).committed = s.committed ∧
    (emptySeedSlot c s).applyPending = s.applyPending ∧ (emptySeedSlot c s).results = s.results ∧
    (emptySeedSlot c s).needed = s.needed ∧ (emptySeedSlot c s).link = s.link ∧
    (emptySeedSlot c s).txFrame = s.txFrame ∧ (emptySeedSlot c s).fdatCopy = s.fdatCopy ∧
    (emptySeedSlot c s).seedAttempts = s.seedAttempts ∧
    (emptySeedSlot c s).groupAttempts = s.groupAttempts ∧
    (emptySeedSlot c s).answerAttempts = s.answerAttempts ∧
    (emptySeedSlot c s).seedTimer = none ∧ (emptySeedSlot c s).requestTimer = s.requestTimer ∧
    (emptySeedSlot c s).groupTimer = s.groupTimer ∧
    (emptySeedSlot c s).answerTimer = s.answerTimer ∧ (emptySeedSlot c s).yield = s.yield ∧
    (emptySeedSlot c s).mismatch = s.mismatch ∧ (emptySeedSlot c s).framing = s.framing ∧
    (emptySeedSlot c s).rxFrame = s.rxFrame ∧
    (emptySeedSlot c s).windowDecision = s.windowDecision ∧
    (emptySeedSlot c s).groupBuffer = s.groupBuffer ∧
    (emptySeedSlot c s).takeAbandoned = s.takeAbandoned ∧
    (emptySeedSlot c s).station = s.station ∧ (emptySeedSlot c s).requests = s.requests ∧
    (emptySeedSlot c s).answers = s.answers ∧ (emptySeedSlot c s).seedSlot = false ∧
    (emptySeedSlot c s).teardownPending = s.teardownPending ∧
    (emptySeedSlot c s).latches = s.latches ∧ (emptySeedSlot c s).details = s.details ∧
    (emptySeedSlot c s).attnMode = s.attnMode ∧ (emptySeedSlot c s).attnMask = s.attnMask ∧
    (emptySeedSlot c s).attn = s.attn := by
  simp [emptySeedSlot, portWaits]

/-- What `latchHits` leaves unchanged, and what it sets whatever the case. -/
@[simp] theorem latchHits_fields (l : List Byte) (s : State) :
    (latchHits l s).pending = s.pending ∧ (latchHits l s).resetAsserted = s.resetAsserted ∧
    (latchHits l s).powerHold = s.powerHold ∧ (latchHits l s).txd = s.txd ∧
    (latchHits l s).dataOut = s.dataOut ∧ (latchHits l s).config = s.config ∧
    (latchHits l s).lock = s.lock ∧ (latchHits l s).port = s.port ∧
    (latchHits l s).table = s.table ∧ (latchHits l s).unknownChunks = s.unknownChunks ∧
    (latchHits l s).items = s.items ∧ (latchHits l s).appliedSinceMark = s.appliedSinceMark ∧
    (latchHits l s).pendingClear = s.pendingClear ∧
    (latchHits l s).lastDivergence = s.lastDivergence ∧
    (latchHits l s).discardedOwn = s.discardedOwn ∧ (latchHits l s).running = s.running ∧
    (latchHits l s).runningDiscarded = s.runningDiscarded ∧
    (latchHits l s).fdatClaim = s.fdatClaim ∧ (latchHits l s).portClaim = s.portClaim ∧
    (latchHits l s).staging = s.staging ∧ (latchHits l s).committed = s.committed ∧
    (latchHits l s).applyPending = s.applyPending ∧ (latchHits l s).results = s.results ∧
    (latchHits l s).needed = s.needed ∧ (latchHits l s).link = s.link ∧
    (latchHits l s).txFrame = s.txFrame ∧ (latchHits l s).fdatCopy = s.fdatCopy ∧
    (latchHits l s).seedAttempts = s.seedAttempts ∧
    (latchHits l s).groupAttempts = s.groupAttempts ∧
    (latchHits l s).answerAttempts = s.answerAttempts ∧ (latchHits l s).seedTimer = s.seedTimer ∧
    (latchHits l s).requestTimer = s.requestTimer ∧ (latchHits l s).groupTimer = s.groupTimer ∧
    (latchHits l s).answerTimer = s.answerTimer ∧ (latchHits l s).yield = s.yield ∧
    (latchHits l s).mismatch = s.mismatch ∧ (latchHits l s).framing = s.framing ∧
    (latchHits l s).rxFrame = s.rxFrame ∧ (latchHits l s).windowDecision = s.windowDecision ∧
    (latchHits l s).groupBuffer = s.groupBuffer ∧
    (latchHits l s).takeAbandoned = s.takeAbandoned ∧ (latchHits l s).station = s.station ∧
    (latchHits l s).requests = s.requests ∧ (latchHits l s).answers = s.answers ∧
    (latchHits l s).seedSlot = s.seedSlot ∧ (latchHits l s).teardownPending = s.teardownPending ∧
    (latchHits l s).attnMode = s.attnMode ∧ (latchHits l s).attnMask = s.attnMask := by
  induction l generalizing s with
  | nil => simp [latchHits]
  | cons i l ih => simp only [latchHits, List.foldl_cons] at ih ⊢; have h := ih (latchCause .watch i s); simpa using h

/-- What `failChunk` leaves unchanged, and what it sets whatever the case. -/
@[simp] theorem failChunk_fields (c : Chunk) (s : State) :
    (failChunk c s).pending = s.pending ∧ (failChunk c s).resetAsserted = s.resetAsserted ∧
    (failChunk c s).powerHold = s.powerHold ∧ (failChunk c s).txd = s.txd ∧
    (failChunk c s).dataOut = s.dataOut ∧ (failChunk c s).config = s.config ∧
    (failChunk c s).lock = s.lock ∧ (failChunk c s).port = s.port ∧
    (failChunk c s).table = s.table ∧ (failChunk c s).unknownChunks = s.unknownChunks ∧
    (failChunk c s).items = s.items ∧ (failChunk c s).appliedSinceMark = s.appliedSinceMark ∧
    (failChunk c s).pendingClear = s.pendingClear ∧
    (failChunk c s).lastDivergence = s.lastDivergence ∧
    (failChunk c s).discardedOwn = s.discardedOwn ∧ (failChunk c s).running = s.running ∧
    (failChunk c s).runningDiscarded = s.runningDiscarded ∧
    (failChunk c s).fdatClaim = s.fdatClaim ∧ (failChunk c s).portClaim = s.portClaim ∧
    (failChunk c s).staging = s.staging ∧ (failChunk c s).applyPending = s.applyPending ∧
    (failChunk c s).link = s.link ∧ (failChunk c s).txFrame = s.txFrame ∧
    (failChunk c s).fdatCopy = s.fdatCopy ∧ (failChunk c s).seedAttempts = s.seedAttempts ∧
    (failChunk c s).groupAttempts = s.groupAttempts ∧
    (failChunk c s).answerAttempts = s.answerAttempts ∧ (failChunk c s).seedTimer = s.seedTimer ∧
    (failChunk c s).answerTimer = s.answerTimer ∧ (failChunk c s).yield = s.yield ∧
    (failChunk c s).mismatch = s.mismatch ∧ (failChunk c s).framing = s.framing ∧
    (failChunk c s).rxFrame = s.rxFrame ∧ (failChunk c s).windowDecision = s.windowDecision ∧
    (failChunk c s).groupBuffer = s.groupBuffer ∧
    (failChunk c s).takeAbandoned = s.takeAbandoned ∧ (failChunk c s).station = s.station ∧
    (failChunk c s).requests = (withoutChunk s.requests c) ∧
    (failChunk c s).answers = s.answers ∧ (failChunk c s).seedSlot = s.seedSlot ∧
    (failChunk c s).teardownPending = s.teardownPending ∧ (failChunk c s).attnMode = s.attnMode ∧
    (failChunk c s).attnMask = s.attnMask := by
  unfold failChunk; dsimp only; split
  · split <;> simp
  · simp

/-- What `autoWant` leaves unchanged, and what it sets whatever the case. -/
@[simp] theorem autoWant_fields (l : List Chunk) (s : State) :
    (autoWant l s).pending = s.pending ∧ (autoWant l s).resetAsserted = s.resetAsserted ∧
    (autoWant l s).powerHold = s.powerHold ∧ (autoWant l s).txd = s.txd ∧
    (autoWant l s).dataOut = s.dataOut ∧ (autoWant l s).config = s.config ∧
    (autoWant l s).lock = s.lock ∧ (autoWant l s).port = s.port ∧
    (autoWant l s).table = s.table ∧ (autoWant l s).unknownChunks = s.unknownChunks ∧
    (autoWant l s).items = s.items ∧ (autoWant l s).appliedSinceMark = s.appliedSinceMark ∧
    (autoWant l s).pendingClear = s.pendingClear ∧
    (autoWant l s).lastDivergence = s.lastDivergence ∧
    (autoWant l s).discardedOwn = s.discardedOwn ∧ (autoWant l s).running = s.running ∧
    (autoWant l s).runningDiscarded = s.runningDiscarded ∧
    (autoWant l s).fdatClaim = s.fdatClaim ∧ (autoWant l s).portClaim = s.portClaim ∧
    (autoWant l s).staging = s.staging ∧ (autoWant l s).committed = s.committed ∧
    (autoWant l s).applyPending = s.applyPending ∧ (autoWant l s).results = s.results ∧
    (autoWant l s).needed = s.needed ∧ (autoWant l s).link = s.link ∧
    (autoWant l s).txFrame = s.txFrame ∧ (autoWant l s).fdatCopy = s.fdatCopy ∧
    (autoWant l s).seedAttempts = s.seedAttempts ∧
    (autoWant l s).groupAttempts = s.groupAttempts ∧
    (autoWant l s).answerAttempts = s.answerAttempts ∧ (autoWant l s).seedTimer = s.seedTimer ∧
    (autoWant l s).groupTimer = s.groupTimer ∧ (autoWant l s).answerTimer = s.answerTimer ∧
    (autoWant l s).yield = s.yield ∧ (autoWant l s).mismatch = s.mismatch ∧
    (autoWant l s).framing = s.framing ∧ (autoWant l s).rxFrame = s.rxFrame ∧
    (autoWant l s).windowDecision = s.windowDecision ∧
    (autoWant l s).groupBuffer = s.groupBuffer ∧ (autoWant l s).takeAbandoned = s.takeAbandoned ∧
    (autoWant l s).station = s.station ∧
    (autoWant l s).requests = (if s.config.autoFill && !s.config.quiet then withWanted s.requests l else s.requests) ∧
    (autoWant l s).answers = s.answers ∧ (autoWant l s).seedSlot = s.seedSlot ∧
    (autoWant l s).teardownPending = s.teardownPending ∧ (autoWant l s).latches = s.latches ∧
    (autoWant l s).details = s.details ∧ (autoWant l s).attnMode = s.attnMode ∧
    (autoWant l s).attnMask = s.attnMask ∧ (autoWant l s).attn = s.attn := by
  unfold autoWant; split <;> simp [*]

/-- What `catchUpLost` leaves unchanged, and what it sets whatever the case. -/
@[simp] theorem catchUpLost_fields (l : List Chunk) (s : State) :
    (catchUpLost l s).pending = s.pending ∧ (catchUpLost l s).resetAsserted = s.resetAsserted ∧
    (catchUpLost l s).powerHold = s.powerHold ∧ (catchUpLost l s).txd = s.txd ∧
    (catchUpLost l s).dataOut = s.dataOut ∧ (catchUpLost l s).config = s.config ∧
    (catchUpLost l s).lock = s.lock ∧ (catchUpLost l s).port = s.port ∧
    (catchUpLost l s).table = s.table ∧ (catchUpLost l s).unknownChunks = s.unknownChunks ∧
    (catchUpLost l s).items = s.items ∧ (catchUpLost l s).appliedSinceMark = s.appliedSinceMark ∧
    (catchUpLost l s).pendingClear = s.pendingClear ∧
    (catchUpLost l s).lastDivergence = s.lastDivergence ∧
    (catchUpLost l s).discardedOwn = s.discardedOwn ∧ (catchUpLost l s).running = s.running ∧
    (catchUpLost l s).runningDiscarded = s.runningDiscarded ∧
    (catchUpLost l s).fdatClaim = s.fdatClaim ∧ (catchUpLost l s).portClaim = s.portClaim ∧
    (catchUpLost l s).staging = s.staging ∧ (catchUpLost l s).committed = s.committed ∧
    (catchUpLost l s).applyPending = s.applyPending ∧ (catchUpLost l s).results = s.results ∧
    (catchUpLost l s).needed = s.needed ∧ (catchUpLost l s).link = s.link ∧
    (catchUpLost l s).txFrame = s.txFrame ∧ (catchUpLost l s).fdatCopy = s.fdatCopy ∧
    (catchUpLost l s).seedAttempts = s.seedAttempts ∧
    (catchUpLost l s).groupAttempts = s.groupAttempts ∧
    (catchUpLost l s).seedTimer = s.seedTimer ∧ (catchUpLost l s).groupTimer = s.groupTimer ∧
    (catchUpLost l s).yield = s.yield ∧ (catchUpLost l s).mismatch = s.mismatch ∧
    (catchUpLost l s).framing = s.framing ∧ (catchUpLost l s).rxFrame = s.rxFrame ∧
    (catchUpLost l s).windowDecision = s.windowDecision ∧
    (catchUpLost l s).groupBuffer = s.groupBuffer ∧
    (catchUpLost l s).takeAbandoned = s.takeAbandoned ∧ (catchUpLost l s).seedSlot = s.seedSlot ∧
    (catchUpLost l s).teardownPending = s.teardownPending ∧
    (catchUpLost l s).attnMode = s.attnMode ∧ (catchUpLost l s).attnMask = s.attnMask := by
  unfold catchUpLost; split <;> simp

/-- What `catchUpGained` leaves unchanged, and what it sets whatever the case. -/
@[simp] theorem catchUpGained_fields (s : State) :
    (catchUpGained s).pending = s.pending ∧ (catchUpGained s).resetAsserted = s.resetAsserted ∧
    (catchUpGained s).powerHold = s.powerHold ∧ (catchUpGained s).txd = s.txd ∧
    (catchUpGained s).dataOut = s.dataOut ∧ (catchUpGained s).config = s.config ∧
    (catchUpGained s).lock = s.lock ∧ (catchUpGained s).port = s.port ∧
    (catchUpGained s).table = s.table ∧ (catchUpGained s).unknownChunks = s.unknownChunks ∧
    (catchUpGained s).items = s.items ∧ (catchUpGained s).appliedSinceMark = s.appliedSinceMark ∧
    (catchUpGained s).pendingClear = s.pendingClear ∧
    (catchUpGained s).lastDivergence = s.lastDivergence ∧
    (catchUpGained s).discardedOwn = s.discardedOwn ∧ (catchUpGained s).running = s.running ∧
    (catchUpGained s).runningDiscarded = s.runningDiscarded ∧
    (catchUpGained s).fdatClaim = s.fdatClaim ∧ (catchUpGained s).portClaim = s.portClaim ∧
    (catchUpGained s).staging = s.staging ∧ (catchUpGained s).committed = s.committed ∧
    (catchUpGained s).applyPending = s.applyPending ∧ (catchUpGained s).results = s.results ∧
    (catchUpGained s).needed = s.needed ∧ (catchUpGained s).link = s.link ∧
    (catchUpGained s).txFrame = s.txFrame ∧ (catchUpGained s).fdatCopy = s.fdatCopy ∧
    (catchUpGained s).seedAttempts = s.seedAttempts ∧
    (catchUpGained s).groupAttempts = s.groupAttempts ∧
    (catchUpGained s).answerAttempts = s.answerAttempts ∧
    (catchUpGained s).seedTimer = s.seedTimer ∧ (catchUpGained s).groupTimer = s.groupTimer ∧
    (catchUpGained s).answerTimer = s.answerTimer ∧ (catchUpGained s).yield = s.yield ∧
    (catchUpGained s).mismatch = s.mismatch ∧ (catchUpGained s).framing = s.framing ∧
    (catchUpGained s).rxFrame = s.rxFrame ∧ (catchUpGained s).windowDecision = s.windowDecision ∧
    (catchUpGained s).groupBuffer = s.groupBuffer ∧
    (catchUpGained s).takeAbandoned = s.takeAbandoned ∧ (catchUpGained s).answers = s.answers ∧
    (catchUpGained s).seedSlot = s.seedSlot ∧
    (catchUpGained s).teardownPending = s.teardownPending ∧
    (catchUpGained s).attnMode = s.attnMode ∧ (catchUpGained s).attnMask = s.attnMask := by
  unfold catchUpGained; split
  · dsimp only; split <;> simp
  all_goals simp

/-- What `waitFillLost` leaves unchanged, and what it sets whatever the case. -/
@[simp] theorem waitFillLost_fields (s : State) :
    (waitFillLost s).pending = s.pending ∧ (waitFillLost s).resetAsserted = s.resetAsserted ∧
    (waitFillLost s).powerHold = s.powerHold ∧ (waitFillLost s).txd = s.txd ∧
    (waitFillLost s).dataOut = s.dataOut ∧ (waitFillLost s).config = s.config ∧
    (waitFillLost s).lock = s.lock ∧ (waitFillLost s).port = s.port ∧
    (waitFillLost s).table = s.table ∧ (waitFillLost s).unknownChunks = s.unknownChunks ∧
    (waitFillLost s).items = s.items ∧ (waitFillLost s).appliedSinceMark = s.appliedSinceMark ∧
    (waitFillLost s).pendingClear = s.pendingClear ∧
    (waitFillLost s).lastDivergence = s.lastDivergence ∧
    (waitFillLost s).discardedOwn = s.discardedOwn ∧ (waitFillLost s).running = s.running ∧
    (waitFillLost s).runningDiscarded = s.runningDiscarded ∧
    (waitFillLost s).fdatClaim = s.fdatClaim ∧ (waitFillLost s).portClaim = s.portClaim ∧
    (waitFillLost s).staging = s.staging ∧ (waitFillLost s).committed = s.committed ∧
    (waitFillLost s).applyPending = s.applyPending ∧ (waitFillLost s).results = s.results ∧
    (waitFillLost s).link = s.link ∧ (waitFillLost s).txFrame = s.txFrame ∧
    (waitFillLost s).fdatCopy = s.fdatCopy ∧ (waitFillLost s).seedAttempts = s.seedAttempts ∧
    (waitFillLost s).groupAttempts = s.groupAttempts ∧
    (waitFillLost s).answerAttempts = s.answerAttempts ∧
    (waitFillLost s).seedTimer = s.seedTimer ∧ (waitFillLost s).groupTimer = s.groupTimer ∧
    (waitFillLost s).answerTimer = s.answerTimer ∧ (waitFillLost s).yield = s.yield ∧
    (waitFillLost s).mismatch = s.mismatch ∧ (waitFillLost s).framing = s.framing ∧
    (waitFillLost s).rxFrame = s.rxFrame ∧ (waitFillLost s).windowDecision = s.windowDecision ∧
    (waitFillLost s).groupBuffer = s.groupBuffer ∧
    (waitFillLost s).takeAbandoned = s.takeAbandoned ∧ (waitFillLost s).station = s.station ∧
    (waitFillLost s).answers = s.answers ∧ (waitFillLost s).seedSlot = s.seedSlot ∧
    (waitFillLost s).teardownPending = s.teardownPending ∧ (waitFillLost s).latches = s.latches ∧
    (waitFillLost s).details = s.details ∧ (waitFillLost s).attnMode = s.attnMode ∧
    (waitFillLost s).attnMask = s.attnMask ∧ (waitFillLost s).attn = s.attn := by
  unfold waitFillLost; split
  · split <;> simp
  · simp

/-- What `waitFillGained` leaves unchanged, and what it sets whatever the case. -/
@[simp] theorem waitFillGained_fields (s : State) :
    (waitFillGained s).pending = s.pending ∧ (waitFillGained s).resetAsserted = s.resetAsserted ∧
    (waitFillGained s).powerHold = s.powerHold ∧ (waitFillGained s).txd = s.txd ∧
    (waitFillGained s).dataOut = s.dataOut ∧ (waitFillGained s).config = s.config ∧
    (waitFillGained s).lock = s.lock ∧ (waitFillGained s).port = s.port ∧
    (waitFillGained s).table = s.table ∧ (waitFillGained s).unknownChunks = s.unknownChunks ∧
    (waitFillGained s).items = s.items ∧
    (waitFillGained s).appliedSinceMark = s.appliedSinceMark ∧
    (waitFillGained s).pendingClear = s.pendingClear ∧
    (waitFillGained s).lastDivergence = s.lastDivergence ∧
    (waitFillGained s).discardedOwn = s.discardedOwn ∧ (waitFillGained s).running = s.running ∧
    (waitFillGained s).runningDiscarded = s.runningDiscarded ∧
    (waitFillGained s).fdatClaim = s.fdatClaim ∧ (waitFillGained s).portClaim = s.portClaim ∧
    (waitFillGained s).staging = s.staging ∧ (waitFillGained s).applyPending = s.applyPending ∧
    (waitFillGained s).results = s.results ∧ (waitFillGained s).link = s.link ∧
    (waitFillGained s).txFrame = s.txFrame ∧ (waitFillGained s).fdatCopy = s.fdatCopy ∧
    (waitFillGained s).seedAttempts = s.seedAttempts ∧
    (waitFillGained s).groupAttempts = s.groupAttempts ∧
    (waitFillGained s).answerAttempts = s.answerAttempts ∧
    (waitFillGained s).seedTimer = s.seedTimer ∧
    (waitFillGained s).requestTimer = s.requestTimer ∧
    (waitFillGained s).groupTimer = s.groupTimer ∧
    (waitFillGained s).answerTimer = s.answerTimer ∧ (waitFillGained s).yield = s.yield ∧
    (waitFillGained s).mismatch = s.mismatch ∧ (waitFillGained s).framing = s.framing ∧
    (waitFillGained s).rxFrame = s.rxFrame ∧
    (waitFillGained s).windowDecision = s.windowDecision ∧
    (waitFillGained s).groupBuffer = s.groupBuffer ∧
    (waitFillGained s).takeAbandoned = s.takeAbandoned ∧ (waitFillGained s).station = s.station ∧
    (waitFillGained s).requests = s.requests ∧ (waitFillGained s).answers = s.answers ∧
    (waitFillGained s).seedSlot = s.seedSlot ∧
    (waitFillGained s).teardownPending = s.teardownPending ∧
    (waitFillGained s).latches = s.latches ∧ (waitFillGained s).details = s.details ∧
    (waitFillGained s).attnMode = s.attnMode ∧ (waitFillGained s).attnMask = s.attnMask ∧
    (waitFillGained s).attn = s.attn := by
  unfold waitFillGained; split
  · split
    · dsimp only; split <;> simp
    · simp
  · simp

/-- What `reportStatus` leaves unchanged, and what it sets whatever the case. -/
@[simp] theorem reportStatus_fields (t : Table) (s : State) :
    (reportStatus t s).pending = s.pending ∧ (reportStatus t s).resetAsserted = s.resetAsserted ∧
    (reportStatus t s).powerHold = s.powerHold ∧ (reportStatus t s).txd = s.txd ∧
    (reportStatus t s).dataOut = s.dataOut ∧ (reportStatus t s).config = s.config ∧
    (reportStatus t s).lock = s.lock ∧ (reportStatus t s).port = s.port ∧
    (reportStatus t s).table = s.table ∧
    (reportStatus t s).unknownChunks = (unknownSummary s.table) ∧
    (reportStatus t s).items = s.items ∧
    (reportStatus t s).appliedSinceMark = s.appliedSinceMark ∧
    (reportStatus t s).pendingClear = s.pendingClear ∧
    (reportStatus t s).lastDivergence = s.lastDivergence ∧
    (reportStatus t s).discardedOwn = s.discardedOwn ∧ (reportStatus t s).running = s.running ∧
    (reportStatus t s).runningDiscarded = s.runningDiscarded ∧
    (reportStatus t s).fdatClaim = s.fdatClaim ∧ (reportStatus t s).portClaim = s.portClaim ∧
    (reportStatus t s).staging = s.staging ∧ (reportStatus t s).applyPending = s.applyPending ∧
    (reportStatus t s).results = s.results ∧ (reportStatus t s).link = s.link ∧
    (reportStatus t s).txFrame = s.txFrame ∧ (reportStatus t s).fdatCopy = s.fdatCopy ∧
    (reportStatus t s).seedAttempts = s.seedAttempts ∧
    (reportStatus t s).groupAttempts = s.groupAttempts ∧
    (reportStatus t s).seedTimer = s.seedTimer ∧ (reportStatus t s).groupTimer = s.groupTimer ∧
    (reportStatus t s).yield = s.yield ∧ (reportStatus t s).mismatch = s.mismatch ∧
    (reportStatus t s).framing = s.framing ∧ (reportStatus t s).rxFrame = s.rxFrame ∧
    (reportStatus t s).windowDecision = s.windowDecision ∧
    (reportStatus t s).groupBuffer = s.groupBuffer ∧
    (reportStatus t s).takeAbandoned = s.takeAbandoned ∧
    (reportStatus t s).seedSlot = s.seedSlot ∧
    (reportStatus t s).teardownPending = s.teardownPending ∧
    (reportStatus t s).attnMode = s.attnMode ∧ (reportStatus t s).attnMask = s.attnMask := by
  unfold reportStatus; dsimp only; split
  · simp
  · split <;> simp

/-- What `countSeed` leaves unchanged, and what it sets whatever the case. -/
@[simp] theorem countSeed_fields (s : State) :
    (countSeed s).pending = s.pending ∧ (countSeed s).resetAsserted = s.resetAsserted ∧
    (countSeed s).powerHold = s.powerHold ∧ (countSeed s).txd = s.txd ∧
    (countSeed s).dataOut = s.dataOut ∧ (countSeed s).config = s.config ∧
    (countSeed s).lock = s.lock ∧ (countSeed s).table = s.table ∧
    (countSeed s).unknownChunks = s.unknownChunks ∧ (countSeed s).items = s.items ∧
    (countSeed s).appliedSinceMark = s.appliedSinceMark ∧
    (countSeed s).pendingClear = s.pendingClear ∧
    (countSeed s).lastDivergence = s.lastDivergence ∧
    (countSeed s).discardedOwn = s.discardedOwn ∧ (countSeed s).running = s.running ∧
    (countSeed s).runningDiscarded = s.runningDiscarded ∧ (countSeed s).fdatClaim = s.fdatClaim ∧
    (countSeed s).portClaim = s.portClaim ∧ (countSeed s).staging = s.staging ∧
    (countSeed s).committed = s.committed ∧ (countSeed s).applyPending = s.applyPending ∧
    (countSeed s).results = s.results ∧ (countSeed s).needed = s.needed ∧
    (countSeed s).link = s.link ∧ (countSeed s).txFrame = s.txFrame ∧
    (countSeed s).fdatCopy = s.fdatCopy ∧ (countSeed s).seedAttempts = (s.seedAttempts + 1) ∧
    (countSeed s).groupAttempts = s.groupAttempts ∧
    (countSeed s).answerAttempts = s.answerAttempts ∧
    (countSeed s).requestTimer = s.requestTimer ∧ (countSeed s).groupTimer = s.groupTimer ∧
    (countSeed s).answerTimer = s.answerTimer ∧ (countSeed s).yield = s.yield ∧
    (countSeed s).mismatch = s.mismatch ∧ (countSeed s).framing = s.framing ∧
    (countSeed s).rxFrame = s.rxFrame ∧ (countSeed s).windowDecision = s.windowDecision ∧
    (countSeed s).groupBuffer = s.groupBuffer ∧ (countSeed s).takeAbandoned = s.takeAbandoned ∧
    (countSeed s).station = s.station ∧ (countSeed s).requests = s.requests ∧
    (countSeed s).answers = s.answers ∧ (countSeed s).teardownPending = s.teardownPending ∧
    (countSeed s).latches = s.latches ∧ (countSeed s).details = s.details ∧
    (countSeed s).attnMode = s.attnMode ∧ (countSeed s).attnMask = s.attnMask ∧
    (countSeed s).attn = s.attn := by
  unfold countSeed; dsimp only; split <;> simp

/-- What `countRequest` leaves unchanged, and what it sets whatever the case. -/
@[simp] theorem countRequest_fields (c : Chunk) (s : State) :
    (countRequest c s).pending = s.pending ∧ (countRequest c s).resetAsserted = s.resetAsserted ∧
    (countRequest c s).powerHold = s.powerHold ∧ (countRequest c s).txd = s.txd ∧
    (countRequest c s).dataOut = s.dataOut ∧ (countRequest c s).config = s.config ∧
    (countRequest c s).lock = s.lock ∧ (countRequest c s).port = s.port ∧
    (countRequest c s).table = s.table ∧ (countRequest c s).unknownChunks = s.unknownChunks ∧
    (countRequest c s).items = s.items ∧
    (countRequest c s).appliedSinceMark = s.appliedSinceMark ∧
    (countRequest c s).pendingClear = s.pendingClear ∧
    (countRequest c s).lastDivergence = s.lastDivergence ∧
    (countRequest c s).discardedOwn = s.discardedOwn ∧ (countRequest c s).running = s.running ∧
    (countRequest c s).runningDiscarded = s.runningDiscarded ∧
    (countRequest c s).fdatClaim = s.fdatClaim ∧ (countRequest c s).portClaim = s.portClaim ∧
    (countRequest c s).staging = s.staging ∧ (countRequest c s).applyPending = s.applyPending ∧
    (countRequest c s).link = s.link ∧ (countRequest c s).txFrame = s.txFrame ∧
    (countRequest c s).fdatCopy = s.fdatCopy ∧ (countRequest c s).seedAttempts = s.seedAttempts ∧
    (countRequest c s).groupAttempts = s.groupAttempts ∧
    (countRequest c s).answerAttempts = s.answerAttempts ∧
    (countRequest c s).seedTimer = s.seedTimer ∧ (countRequest c s).answerTimer = s.answerTimer ∧
    (countRequest c s).yield = s.yield ∧ (countRequest c s).mismatch = s.mismatch ∧
    (countRequest c s).framing = s.framing ∧ (countRequest c s).rxFrame = s.rxFrame ∧
    (countRequest c s).windowDecision = s.windowDecision ∧
    (countRequest c s).groupBuffer = s.groupBuffer ∧
    (countRequest c s).takeAbandoned = s.takeAbandoned ∧ (countRequest c s).station = s.station ∧
    (countRequest c s).answers = s.answers ∧ (countRequest c s).seedSlot = s.seedSlot ∧
    (countRequest c s).teardownPending = s.teardownPending ∧
    (countRequest c s).attnMode = s.attnMode ∧ (countRequest c s).attnMask = s.attnMask := by
  unfold countRequest; split
  · simp
  · dsimp only; split <;> simp

/-- What `countGroup` leaves unchanged, and what it sets whatever the case. -/
@[simp] theorem countGroup_fields (s : State) :
    (countGroup s).pending = s.pending ∧ (countGroup s).resetAsserted = s.resetAsserted ∧
    (countGroup s).powerHold = s.powerHold ∧ (countGroup s).txd = s.txd ∧
    (countGroup s).dataOut = s.dataOut ∧ (countGroup s).config = s.config ∧
    (countGroup s).lock = s.lock ∧ (countGroup s).port = s.port ∧
    (countGroup s).table = s.table ∧ (countGroup s).unknownChunks = s.unknownChunks ∧
    (countGroup s).items = s.items ∧ (countGroup s).appliedSinceMark = s.appliedSinceMark ∧
    (countGroup s).pendingClear = s.pendingClear ∧
    (countGroup s).lastDivergence = s.lastDivergence ∧
    (countGroup s).discardedOwn = s.discardedOwn ∧ (countGroup s).running = s.running ∧
    (countGroup s).runningDiscarded = s.runningDiscarded ∧
    (countGroup s).fdatClaim = s.fdatClaim ∧ (countGroup s).portClaim = s.portClaim ∧
    (countGroup s).staging = s.staging ∧ (countGroup s).applyPending = s.applyPending ∧
    (countGroup s).link = s.link ∧ (countGroup s).txFrame = s.txFrame ∧
    (countGroup s).fdatCopy = s.fdatCopy ∧ (countGroup s).seedAttempts = s.seedAttempts ∧
    (countGroup s).answerAttempts = s.answerAttempts ∧ (countGroup s).seedTimer = s.seedTimer ∧
    (countGroup s).requestTimer = s.requestTimer ∧ (countGroup s).answerTimer = s.answerTimer ∧
    (countGroup s).yield = s.yield ∧ (countGroup s).mismatch = s.mismatch ∧
    (countGroup s).framing = s.framing ∧ (countGroup s).rxFrame = s.rxFrame ∧
    (countGroup s).windowDecision = s.windowDecision ∧
    (countGroup s).groupBuffer = s.groupBuffer ∧ (countGroup s).takeAbandoned = s.takeAbandoned ∧
    (countGroup s).station = s.station ∧ (countGroup s).requests = s.requests ∧
    (countGroup s).answers = s.answers ∧ (countGroup s).seedSlot = s.seedSlot ∧
    (countGroup s).teardownPending = s.teardownPending ∧ (countGroup s).attnMode = s.attnMode ∧
    (countGroup s).attnMask = s.attnMask := by
  unfold countGroup; split
  · simp
  · dsimp only; split <;> simp

/-- What `countAnswer` leaves unchanged, and what it sets whatever the case. -/
@[simp] theorem countAnswer_fields (c : Chunk) (s : State) :
    (countAnswer c s).pending = s.pending ∧ (countAnswer c s).resetAsserted = s.resetAsserted ∧
    (countAnswer c s).powerHold = s.powerHold ∧ (countAnswer c s).txd = s.txd ∧
    (countAnswer c s).dataOut = s.dataOut ∧ (countAnswer c s).config = s.config ∧
    (countAnswer c s).lock = s.lock ∧ (countAnswer c s).port = s.port ∧
    (countAnswer c s).table = s.table ∧ (countAnswer c s).unknownChunks = s.unknownChunks ∧
    (countAnswer c s).items = s.items ∧ (countAnswer c s).appliedSinceMark = s.appliedSinceMark ∧
    (countAnswer c s).pendingClear = s.pendingClear ∧
    (countAnswer c s).lastDivergence = s.lastDivergence ∧
    (countAnswer c s).discardedOwn = s.discardedOwn ∧ (countAnswer c s).running = s.running ∧
    (countAnswer c s).runningDiscarded = s.runningDiscarded ∧
    (countAnswer c s).fdatClaim = s.fdatClaim ∧ (countAnswer c s).portClaim = s.portClaim ∧
    (countAnswer c s).staging = s.staging ∧ (countAnswer c s).committed = s.committed ∧
    (countAnswer c s).applyPending = s.applyPending ∧ (countAnswer c s).results = s.results ∧
    (countAnswer c s).needed = s.needed ∧ (countAnswer c s).link = s.link ∧
    (countAnswer c s).txFrame = s.txFrame ∧ (countAnswer c s).fdatCopy = s.fdatCopy ∧
    (countAnswer c s).seedAttempts = s.seedAttempts ∧
    (countAnswer c s).groupAttempts = s.groupAttempts ∧
    (countAnswer c s).seedTimer = s.seedTimer ∧ (countAnswer c s).requestTimer = s.requestTimer ∧
    (countAnswer c s).groupTimer = s.groupTimer ∧ (countAnswer c s).yield = s.yield ∧
    (countAnswer c s).mismatch = s.mismatch ∧ (countAnswer c s).framing = s.framing ∧
    (countAnswer c s).rxFrame = s.rxFrame ∧ (countAnswer c s).windowDecision = s.windowDecision ∧
    (countAnswer c s).groupBuffer = s.groupBuffer ∧
    (countAnswer c s).takeAbandoned = s.takeAbandoned ∧ (countAnswer c s).station = s.station ∧
    (countAnswer c s).requests = s.requests ∧ (countAnswer c s).seedSlot = s.seedSlot ∧
    (countAnswer c s).teardownPending = s.teardownPending ∧
    (countAnswer c s).latches = s.latches ∧ (countAnswer c s).details = s.details ∧
    (countAnswer c s).attnMode = s.attnMode ∧ (countAnswer c s).attnMask = s.attnMask ∧
    (countAnswer c s).attn = s.attn := by
  unfold countAnswer; split
  · dsimp only; split <;> simp
  · simp

/-- What `countAttempt` leaves unchanged, and what it sets whatever the case. -/
@[simp] theorem countAttempt_fields (b : TxBody) (s : State) :
    (countAttempt b s).pending = s.pending ∧ (countAttempt b s).resetAsserted = s.resetAsserted ∧
    (countAttempt b s).powerHold = s.powerHold ∧ (countAttempt b s).txd = s.txd ∧
    (countAttempt b s).dataOut = s.dataOut ∧ (countAttempt b s).config = s.config ∧
    (countAttempt b s).lock = s.lock ∧ (countAttempt b s).table = s.table ∧
    (countAttempt b s).unknownChunks = s.unknownChunks ∧ (countAttempt b s).items = s.items ∧
    (countAttempt b s).appliedSinceMark = s.appliedSinceMark ∧
    (countAttempt b s).pendingClear = s.pendingClear ∧
    (countAttempt b s).lastDivergence = s.lastDivergence ∧
    (countAttempt b s).discardedOwn = s.discardedOwn ∧ (countAttempt b s).running = s.running ∧
    (countAttempt b s).runningDiscarded = s.runningDiscarded ∧
    (countAttempt b s).fdatClaim = s.fdatClaim ∧ (countAttempt b s).portClaim = s.portClaim ∧
    (countAttempt b s).staging = s.staging ∧ (countAttempt b s).applyPending = s.applyPending ∧
    (countAttempt b s).link = s.link ∧ (countAttempt b s).txFrame = s.txFrame ∧
    (countAttempt b s).fdatCopy = s.fdatCopy ∧ (countAttempt b s).yield = s.yield ∧
    (countAttempt b s).mismatch = s.mismatch ∧ (countAttempt b s).framing = s.framing ∧
    (countAttempt b s).rxFrame = s.rxFrame ∧
    (countAttempt b s).windowDecision = s.windowDecision ∧
    (countAttempt b s).groupBuffer = s.groupBuffer ∧
    (countAttempt b s).takeAbandoned = s.takeAbandoned ∧ (countAttempt b s).station = s.station ∧
    (countAttempt b s).teardownPending = s.teardownPending ∧
    (countAttempt b s).attnMode = s.attnMode ∧ (countAttempt b s).attnMask = s.attnMask := by
  unfold countAttempt; split <;> simp

/-- What `loseStep` leaves unchanged, and what it sets whatever the case. -/
@[simp] theorem loseStep_fields (s : State) :
    (loseStep s).pending = s.pending ∧ (loseStep s).resetAsserted = s.resetAsserted ∧
    (loseStep s).powerHold = s.powerHold ∧ (loseStep s).txd = s.txd ∧
    (loseStep s).dataOut = s.dataOut ∧ (loseStep s).config = s.config ∧
    (loseStep s).lock = s.lock ∧ (loseStep s).port = s.port ∧ (loseStep s).table = s.table ∧
    (loseStep s).unknownChunks = s.unknownChunks ∧ (loseStep s).items = s.items ∧
    (loseStep s).appliedSinceMark = s.appliedSinceMark ∧
    (loseStep s).pendingClear = (some s.items.length) ∧
    (loseStep s).lastDivergence = s.lastDivergence ∧ (loseStep s).discardedOwn = s.discardedOwn ∧
    (loseStep s).running = s.running ∧ (loseStep s).runningDiscarded = s.runningDiscarded ∧
    (loseStep s).fdatClaim = s.fdatClaim ∧ (loseStep s).portClaim = s.portClaim ∧
    (loseStep s).staging = s.staging ∧ (loseStep s).committed = s.committed ∧
    (loseStep s).applyPending = s.applyPending ∧ (loseStep s).results = s.results ∧
    (loseStep s).needed = s.needed ∧ (loseStep s).link = s.link ∧
    (loseStep s).txFrame = s.txFrame ∧ (loseStep s).fdatCopy = s.fdatCopy ∧
    (loseStep s).seedAttempts = s.seedAttempts ∧ (loseStep s).groupAttempts = s.groupAttempts ∧
    (loseStep s).seedTimer = s.seedTimer ∧ (loseStep s).requestTimer = s.requestTimer ∧
    (loseStep s).groupTimer = s.groupTimer ∧ (loseStep s).yield = s.yield ∧
    (loseStep s).mismatch = s.mismatch ∧ (loseStep s).framing = s.framing ∧
    (loseStep s).rxFrame = s.rxFrame ∧ (loseStep s).windowDecision = s.windowDecision ∧
    (loseStep s).groupBuffer = none ∧ (loseStep s).takeAbandoned = s.takeAbandoned ∧
    (loseStep s).station = s.station ∧ (loseStep s).requests = s.requests ∧
    (loseStep s).seedSlot = s.seedSlot ∧ (loseStep s).teardownPending = s.teardownPending ∧
    (loseStep s).latches = s.latches ∧ (loseStep s).details = s.details ∧
    (loseStep s).attnMode = s.attnMode ∧ (loseStep s).attnMask = s.attnMask ∧
    (loseStep s).attn = s.attn := by
  unfold loseStep; dsimp only; split <;> simp

/-- What `dropGroup` leaves unchanged, and what it sets whatever the case. -/
@[simp] theorem dropGroup_fields (s : State) :
    (dropGroup s).pending = s.pending ∧ (dropGroup s).resetAsserted = s.resetAsserted ∧
    (dropGroup s).powerHold = s.powerHold ∧ (dropGroup s).txd = s.txd ∧
    (dropGroup s).dataOut = s.dataOut ∧ (dropGroup s).config = s.config ∧
    (dropGroup s).lock = s.lock ∧ (dropGroup s).port = s.port ∧ (dropGroup s).table = s.table ∧
    (dropGroup s).unknownChunks = s.unknownChunks ∧ (dropGroup s).items = s.items ∧
    (dropGroup s).appliedSinceMark = s.appliedSinceMark ∧
    (dropGroup s).pendingClear = s.pendingClear ∧
    (dropGroup s).lastDivergence = s.lastDivergence ∧
    (dropGroup s).discardedOwn = s.discardedOwn ∧ (dropGroup s).running = s.running ∧
    (dropGroup s).runningDiscarded = s.runningDiscarded ∧ (dropGroup s).fdatClaim = s.fdatClaim ∧
    (dropGroup s).portClaim = s.portClaim ∧ (dropGroup s).staging = s.staging ∧
    (dropGroup s).committed = none ∧ (dropGroup s).applyPending = s.applyPending ∧
    (dropGroup s).link = s.link ∧ (dropGroup s).txFrame = s.txFrame ∧
    (dropGroup s).fdatCopy = s.fdatCopy ∧ (dropGroup s).seedAttempts = s.seedAttempts ∧
    (dropGroup s).groupAttempts = s.groupAttempts ∧
    (dropGroup s).answerAttempts = s.answerAttempts ∧ (dropGroup s).seedTimer = s.seedTimer ∧
    (dropGroup s).requestTimer = s.requestTimer ∧ (dropGroup s).answerTimer = s.answerTimer ∧
    (dropGroup s).yield = s.yield ∧ (dropGroup s).mismatch = s.mismatch ∧
    (dropGroup s).framing = s.framing ∧ (dropGroup s).rxFrame = s.rxFrame ∧
    (dropGroup s).windowDecision = s.windowDecision ∧ (dropGroup s).groupBuffer = s.groupBuffer ∧
    (dropGroup s).takeAbandoned = s.takeAbandoned ∧ (dropGroup s).station = s.station ∧
    (dropGroup s).requests = s.requests ∧ (dropGroup s).answers = s.answers ∧
    (dropGroup s).seedSlot = s.seedSlot ∧ (dropGroup s).teardownPending = s.teardownPending ∧
    (dropGroup s).attnMode = s.attnMode ∧ (dropGroup s).attnMask = s.attnMask := by
  unfold dropGroup; split <;> simp [*]

/-- What `leaveLine` leaves unchanged, and what it sets whatever the case. -/
@[simp] theorem leaveLine_fields (st : StationState) (s : State) :
    (leaveLine st s).pending = s.pending ∧ (leaveLine st s).resetAsserted = s.resetAsserted ∧
    (leaveLine st s).powerHold = s.powerHold ∧ (leaveLine st s).txd = [.recessive] ∧
    (leaveLine st s).dataOut = s.dataOut ∧ (leaveLine st s).config = s.config ∧
    (leaveLine st s).lock = s.lock ∧
    (leaveLine st s).port = (if portWaits .seedSlot s then portWithResult [codeByte .dropped] s.port else s.port) ∧
    (leaveLine st s).table = s.table ∧ (leaveLine st s).unknownChunks = s.unknownChunks ∧
    (leaveLine st s).items = (itemsUnderGrant s) ∧
    (leaveLine st s).appliedSinceMark = s.appliedSinceMark ∧
    (leaveLine st s).pendingClear = none ∧ (leaveLine st s).lastDivergence = s.lastDivergence ∧
    (leaveLine st s).discardedOwn = (ownEntryCount (itemsDiscarded s)) ∧
    (leaveLine st s).running = s.running ∧ (leaveLine st s).fdatClaim = none ∧
    (leaveLine st s).portClaim = s.portClaim ∧ (leaveLine st s).staging = s.staging ∧
    (leaveLine st s).committed = none ∧ (leaveLine st s).applyPending = s.applyPending ∧
    (leaveLine st s).link = .off ∧ (leaveLine st s).txFrame = none ∧
    (leaveLine st s).fdatCopy = none ∧ (leaveLine st s).seedAttempts = 0 ∧
    (leaveLine st s).groupAttempts = 0 ∧ (leaveLine st s).answerAttempts = 0 ∧
    (leaveLine st s).seedTimer = none ∧ (leaveLine st s).requestTimer = none ∧
    (leaveLine st s).groupTimer = none ∧ (leaveLine st s).answerTimer = none ∧
    (leaveLine st s).yield = false ∧ (leaveLine st s).mismatch = s.mismatch ∧
    (leaveLine st s).framing = .off ∧ (leaveLine st s).rxFrame = none ∧
    (leaveLine st s).windowDecision = none ∧ (leaveLine st s).groupBuffer = none ∧
    (leaveLine st s).takeAbandoned = false ∧ (leaveLine st s).station = st ∧
    (leaveLine st s).requests = [] ∧ (leaveLine st s).answers = [] ∧
    (leaveLine st s).seedSlot = false ∧ (leaveLine st s).teardownPending = true ∧
    (leaveLine st s).attnMode = s.attnMode ∧ (leaveLine st s).attnMask = s.attnMask := by
  unfold leaveLine; dsimp only; simp [itemsUnderGrant, itemsDiscarded, portWaits]
  unfold dropGroup; split <;> simp

/-- What `attach` leaves unchanged, and what it sets whatever the case. -/
@[simp] theorem attach_fields (s : State) :
    (attach s).pending = s.pending ∧ (attach s).resetAsserted = s.resetAsserted ∧
    (attach s).powerHold = s.powerHold ∧ (attach s).txd = [.recessive] ∧
    (attach s).dataOut = s.dataOut ∧ (attach s).config = s.config ∧ (attach s).lock = s.lock ∧
    (attach s).table = s.table ∧ (attach s).unknownChunks = s.unknownChunks ∧
    (attach s).items = s.items ∧ (attach s).appliedSinceMark = s.appliedSinceMark ∧
    (attach s).pendingClear = s.pendingClear ∧ (attach s).lastDivergence = s.lastDivergence ∧
    (attach s).discardedOwn = s.discardedOwn ∧ (attach s).running = s.running ∧
    (attach s).runningDiscarded = s.runningDiscarded ∧ (attach s).fdatClaim = s.fdatClaim ∧
    (attach s).portClaim = s.portClaim ∧ (attach s).staging = s.staging ∧
    (attach s).committed = s.committed ∧ (attach s).applyPending = s.applyPending ∧
    (attach s).results = s.results ∧ (attach s).needed = s.needed ∧ (attach s).link = .listen ∧
    (attach s).txFrame = s.txFrame ∧ (attach s).fdatCopy = s.fdatCopy ∧
    (attach s).seedAttempts = 0 ∧ (attach s).groupAttempts = 0 ∧ (attach s).answerAttempts = 0 ∧
    (attach s).seedTimer = none ∧ (attach s).requestTimer = none ∧ (attach s).groupTimer = none ∧
    (attach s).answerTimer = none ∧ (attach s).yield = false ∧ (attach s).mismatch = 0 ∧
    (attach s).framing = (.search 0) ∧ (attach s).rxFrame = none ∧
    (attach s).windowDecision = none ∧ (attach s).groupBuffer = none ∧
    (attach s).takeAbandoned = false ∧ (attach s).station = .catchingUp ∧
    (attach s).requests = (if s.config.autoFill && !s.config.quiet then allChunks.map newRequest else []) ∧
    (attach s).answers = [] ∧ (attach s).seedSlot = false ∧
    (attach s).teardownPending = s.teardownPending ∧ (attach s).attnMode = s.attnMode ∧
    (attach s).attnMask = s.attnMask := by
  simp [attach]

/-- What `addAnswer` leaves unchanged, and what it sets whatever the case. -/
@[simp] theorem addAnswer_fields (c : Chunk) (s : State) :
    (addAnswer c s).pending = s.pending ∧ (addAnswer c s).resetAsserted = s.resetAsserted ∧
    (addAnswer c s).powerHold = s.powerHold ∧ (addAnswer c s).txd = s.txd ∧
    (addAnswer c s).dataOut = s.dataOut ∧ (addAnswer c s).config = s.config ∧
    (addAnswer c s).lock = s.lock ∧ (addAnswer c s).port = s.port ∧
    (addAnswer c s).table = s.table ∧ (addAnswer c s).unknownChunks = s.unknownChunks ∧
    (addAnswer c s).items = s.items ∧ (addAnswer c s).appliedSinceMark = s.appliedSinceMark ∧
    (addAnswer c s).pendingClear = s.pendingClear ∧
    (addAnswer c s).lastDivergence = s.lastDivergence ∧
    (addAnswer c s).discardedOwn = s.discardedOwn ∧ (addAnswer c s).running = s.running ∧
    (addAnswer c s).runningDiscarded = s.runningDiscarded ∧
    (addAnswer c s).fdatClaim = s.fdatClaim ∧ (addAnswer c s).portClaim = s.portClaim ∧
    (addAnswer c s).staging = s.staging ∧ (addAnswer c s).committed = s.committed ∧
    (addAnswer c s).applyPending = s.applyPending ∧ (addAnswer c s).results = s.results ∧
    (addAnswer c s).needed = s.needed ∧ (addAnswer c s).link = s.link ∧
    (addAnswer c s).txFrame = s.txFrame ∧ (addAnswer c s).fdatCopy = s.fdatCopy ∧
    (addAnswer c s).seedAttempts = s.seedAttempts ∧
    (addAnswer c s).groupAttempts = s.groupAttempts ∧ (addAnswer c s).seedTimer = s.seedTimer ∧
    (addAnswer c s).requestTimer = s.requestTimer ∧ (addAnswer c s).groupTimer = s.groupTimer ∧
    (addAnswer c s).yield = s.yield ∧ (addAnswer c s).mismatch = s.mismatch ∧
    (addAnswer c s).framing = s.framing ∧ (addAnswer c s).rxFrame = s.rxFrame ∧
    (addAnswer c s).windowDecision = s.windowDecision ∧
    (addAnswer c s).groupBuffer = s.groupBuffer ∧
    (addAnswer c s).takeAbandoned = s.takeAbandoned ∧ (addAnswer c s).station = s.station ∧
    (addAnswer c s).requests = s.requests ∧ (addAnswer c s).seedSlot = s.seedSlot ∧
    (addAnswer c s).teardownPending = s.teardownPending ∧ (addAnswer c s).latches = s.latches ∧
    (addAnswer c s).details = s.details ∧ (addAnswer c s).attnMode = s.attnMode ∧
    (addAnswer c s).attnMask = s.attnMask ∧ (addAnswer c s).attn = s.attn := by
  unfold addAnswer; split <;> simp

/-- What `acceptFreq` leaves unchanged, and what it sets whatever the case. -/
@[simp] theorem acceptFreq_fields (c : Chunk) (s : State) :
    (acceptFreq c s).pending = s.pending ∧ (acceptFreq c s).resetAsserted = s.resetAsserted ∧
    (acceptFreq c s).powerHold = s.powerHold ∧ (acceptFreq c s).txd = s.txd ∧
    (acceptFreq c s).dataOut = s.dataOut ∧ (acceptFreq c s).config = s.config ∧
    (acceptFreq c s).lock = s.lock ∧ (acceptFreq c s).port = s.port ∧
    (acceptFreq c s).table = s.table ∧ (acceptFreq c s).unknownChunks = s.unknownChunks ∧
    (acceptFreq c s).items = s.items ∧ (acceptFreq c s).appliedSinceMark = s.appliedSinceMark ∧
    (acceptFreq c s).pendingClear = s.pendingClear ∧
    (acceptFreq c s).lastDivergence = s.lastDivergence ∧
    (acceptFreq c s).discardedOwn = s.discardedOwn ∧ (acceptFreq c s).running = s.running ∧
    (acceptFreq c s).runningDiscarded = s.runningDiscarded ∧
    (acceptFreq c s).fdatClaim = s.fdatClaim ∧ (acceptFreq c s).portClaim = s.portClaim ∧
    (acceptFreq c s).staging = s.staging ∧ (acceptFreq c s).committed = s.committed ∧
    (acceptFreq c s).applyPending = s.applyPending ∧ (acceptFreq c s).results = s.results ∧
    (acceptFreq c s).needed = s.needed ∧ (acceptFreq c s).link = s.link ∧
    (acceptFreq c s).txFrame = s.txFrame ∧ (acceptFreq c s).fdatCopy = s.fdatCopy ∧
    (acceptFreq c s).seedAttempts = s.seedAttempts ∧
    (acceptFreq c s).groupAttempts = s.groupAttempts ∧ (acceptFreq c s).seedTimer = s.seedTimer ∧
    (acceptFreq c s).groupTimer = s.groupTimer ∧ (acceptFreq c s).yield = s.yield ∧
    (acceptFreq c s).mismatch = s.mismatch ∧ (acceptFreq c s).framing = s.framing ∧
    (acceptFreq c s).rxFrame = s.rxFrame ∧ (acceptFreq c s).windowDecision = s.windowDecision ∧
    (acceptFreq c s).groupBuffer = s.groupBuffer ∧
    (acceptFreq c s).takeAbandoned = s.takeAbandoned ∧ (acceptFreq c s).station = s.station ∧
    (acceptFreq c s).requests = (askChunk s.requests c s.config.fillTimeout.toNat) ∧
    (acceptFreq c s).seedSlot = s.seedSlot ∧
    (acceptFreq c s).teardownPending = s.teardownPending ∧ (acceptFreq c s).latches = s.latches ∧
    (acceptFreq c s).details = s.details ∧ (acceptFreq c s).attnMode = s.attnMode ∧
    (acceptFreq c s).attnMask = s.attnMask ∧ (acceptFreq c s).attn = s.attn := by
  simp [acceptFreq]

/-- What `acceptFdat` leaves unchanged, and what it sets whatever the case. -/
@[simp] theorem acceptFdat_fields (c : Chunk) (s : State) :
    (acceptFdat c s).pending = s.pending ∧ (acceptFdat c s).resetAsserted = s.resetAsserted ∧
    (acceptFdat c s).powerHold = s.powerHold ∧ (acceptFdat c s).txd = s.txd ∧
    (acceptFdat c s).dataOut = s.dataOut ∧ (acceptFdat c s).config = s.config ∧
    (acceptFdat c s).lock = s.lock ∧ (acceptFdat c s).port = s.port ∧
    (acceptFdat c s).table = s.table ∧ (acceptFdat c s).unknownChunks = s.unknownChunks ∧
    (acceptFdat c s).items = s.items ∧ (acceptFdat c s).appliedSinceMark = s.appliedSinceMark ∧
    (acceptFdat c s).pendingClear = s.pendingClear ∧
    (acceptFdat c s).lastDivergence = s.lastDivergence ∧
    (acceptFdat c s).discardedOwn = s.discardedOwn ∧ (acceptFdat c s).running = s.running ∧
    (acceptFdat c s).runningDiscarded = s.runningDiscarded ∧
    (acceptFdat c s).fdatClaim = s.fdatClaim ∧ (acceptFdat c s).portClaim = s.portClaim ∧
    (acceptFdat c s).staging = s.staging ∧ (acceptFdat c s).committed = s.committed ∧
    (acceptFdat c s).applyPending = s.applyPending ∧ (acceptFdat c s).results = s.results ∧
    (acceptFdat c s).needed = s.needed ∧ (acceptFdat c s).link = s.link ∧
    (acceptFdat c s).txFrame = s.txFrame ∧ (acceptFdat c s).fdatCopy = s.fdatCopy ∧
    (acceptFdat c s).seedAttempts = s.seedAttempts ∧
    (acceptFdat c s).groupAttempts = s.groupAttempts ∧ (acceptFdat c s).seedTimer = s.seedTimer ∧
    (acceptFdat c s).groupTimer = s.groupTimer ∧ (acceptFdat c s).yield = s.yield ∧
    (acceptFdat c s).mismatch = s.mismatch ∧ (acceptFdat c s).framing = s.framing ∧
    (acceptFdat c s).rxFrame = s.rxFrame ∧ (acceptFdat c s).windowDecision = s.windowDecision ∧
    (acceptFdat c s).groupBuffer = s.groupBuffer ∧
    (acceptFdat c s).takeAbandoned = s.takeAbandoned ∧ (acceptFdat c s).station = s.station ∧
    (acceptFdat c s).requests = (withoutChunk s.requests c) ∧
    (acceptFdat c s).answers = (s.answers.filter (· != c)) ∧
    (acceptFdat c s).seedSlot = s.seedSlot ∧
    (acceptFdat c s).teardownPending = s.teardownPending ∧ (acceptFdat c s).latches = s.latches ∧
    (acceptFdat c s).details = s.details ∧ (acceptFdat c s).attnMode = s.attnMode ∧
    (acceptFdat c s).attnMask = s.attnMask ∧ (acceptFdat c s).attn = s.attn := by
  simp [acceptFdat]

/-- What `acceptSeed` leaves unchanged, and what it sets whatever the case. -/
@[simp] theorem acceptSeed_fields (s : State) :
    (acceptSeed s).pending = s.pending ∧ (acceptSeed s).resetAsserted = s.resetAsserted ∧
    (acceptSeed s).powerHold = s.powerHold ∧ (acceptSeed s).txd = s.txd ∧
    (acceptSeed s).dataOut = s.dataOut ∧ (acceptSeed s).config = s.config ∧
    (acceptSeed s).lock = s.lock ∧
    (acceptSeed s).port = (if portWaits .seedSlot s then portWithResult [codeByte .ok] s.port else s.port) ∧
    (acceptSeed s).table = s.table ∧ (acceptSeed s).unknownChunks = s.unknownChunks ∧
    (acceptSeed s).items = s.items ∧ (acceptSeed s).appliedSinceMark = s.appliedSinceMark ∧
    (acceptSeed s).pendingClear = s.pendingClear ∧
    (acceptSeed s).lastDivergence = s.lastDivergence ∧
    (acceptSeed s).discardedOwn = s.discardedOwn ∧ (acceptSeed s).running = s.running ∧
    (acceptSeed s).runningDiscarded = s.runningDiscarded ∧
    (acceptSeed s).fdatClaim = s.fdatClaim ∧ (acceptSeed s).portClaim = s.portClaim ∧
    (acceptSeed s).staging = s.staging ∧ (acceptSeed s).committed = s.committed ∧
    (acceptSeed s).applyPending = s.applyPending ∧ (acceptSeed s).results = s.results ∧
    (acceptSeed s).needed = s.needed ∧ (acceptSeed s).link = s.link ∧
    (acceptSeed s).txFrame = s.txFrame ∧ (acceptSeed s).fdatCopy = s.fdatCopy ∧
    (acceptSeed s).seedAttempts = s.seedAttempts ∧
    (acceptSeed s).groupAttempts = s.groupAttempts ∧ (acceptSeed s).seedTimer = none ∧
    (acceptSeed s).groupTimer = s.groupTimer ∧ (acceptSeed s).yield = s.yield ∧
    (acceptSeed s).mismatch = s.mismatch ∧ (acceptSeed s).framing = s.framing ∧
    (acceptSeed s).rxFrame = s.rxFrame ∧ (acceptSeed s).windowDecision = s.windowDecision ∧
    (acceptSeed s).groupBuffer = s.groupBuffer ∧ (acceptSeed s).takeAbandoned = s.takeAbandoned ∧
    (acceptSeed s).station = s.station ∧ (acceptSeed s).requests = [] ∧
    (acceptSeed s).answers = [] ∧ (acceptSeed s).seedSlot = false ∧
    (acceptSeed s).teardownPending = s.teardownPending ∧ (acceptSeed s).latches = s.latches ∧
    (acceptSeed s).details = s.details ∧ (acceptSeed s).attnMode = s.attnMode ∧
    (acceptSeed s).attnMask = s.attnMask ∧ (acceptSeed s).attn = s.attn := by
  simp [acceptSeed, portWaits]

/-- What `finishDiscarded` leaves unchanged, and what it sets whatever the case. -/
@[simp] theorem finishDiscarded_fields (s : State) :
    (finishDiscarded s).pending = s.pending ∧
    (finishDiscarded s).resetAsserted = s.resetAsserted ∧
    (finishDiscarded s).powerHold = s.powerHold ∧ (finishDiscarded s).txd = s.txd ∧
    (finishDiscarded s).dataOut = s.dataOut ∧ (finishDiscarded s).config = s.config ∧
    (finishDiscarded s).lock = s.lock ∧ (finishDiscarded s).port = s.port ∧
    (finishDiscarded s).table = s.table ∧ (finishDiscarded s).unknownChunks = s.unknownChunks ∧
    (finishDiscarded s).items = s.items ∧
    (finishDiscarded s).appliedSinceMark = s.appliedSinceMark ∧
    (finishDiscarded s).pendingClear = s.pendingClear ∧
    (finishDiscarded s).lastDivergence = s.lastDivergence ∧
    (finishDiscarded s).discardedOwn = none ∧ (finishDiscarded s).running = s.running ∧
    (finishDiscarded s).runningDiscarded = s.runningDiscarded ∧
    (finishDiscarded s).fdatClaim = s.fdatClaim ∧ (finishDiscarded s).portClaim = s.portClaim ∧
    (finishDiscarded s).staging = s.staging ∧ (finishDiscarded s).committed = s.committed ∧
    (finishDiscarded s).needed = s.needed ∧ (finishDiscarded s).link = s.link ∧
    (finishDiscarded s).txFrame = s.txFrame ∧ (finishDiscarded s).fdatCopy = s.fdatCopy ∧
    (finishDiscarded s).seedAttempts = s.seedAttempts ∧
    (finishDiscarded s).groupAttempts = s.groupAttempts ∧
    (finishDiscarded s).answerAttempts = s.answerAttempts ∧
    (finishDiscarded s).seedTimer = s.seedTimer ∧
    (finishDiscarded s).requestTimer = s.requestTimer ∧
    (finishDiscarded s).groupTimer = s.groupTimer ∧
    (finishDiscarded s).answerTimer = s.answerTimer ∧ (finishDiscarded s).yield = s.yield ∧
    (finishDiscarded s).mismatch = s.mismatch ∧ (finishDiscarded s).framing = s.framing ∧
    (finishDiscarded s).rxFrame = s.rxFrame ∧
    (finishDiscarded s).windowDecision = s.windowDecision ∧
    (finishDiscarded s).groupBuffer = s.groupBuffer ∧
    (finishDiscarded s).takeAbandoned = s.takeAbandoned ∧
    (finishDiscarded s).station = s.station ∧ (finishDiscarded s).requests = s.requests ∧
    (finishDiscarded s).answers = s.answers ∧ (finishDiscarded s).seedSlot = s.seedSlot ∧
    (finishDiscarded s).teardownPending = s.teardownPending ∧
    (finishDiscarded s).attnMode = s.attnMode ∧ (finishDiscarded s).attnMask = s.attnMask := by
  unfold finishDiscarded; split <;> simp [*]

/-- What `loseSlot` leaves unchanged, and what it sets whatever the case. -/
@[simp] theorem loseSlot_fields (b : TxBody) (s : State) :
    (loseSlot b s).pending = s.pending ∧ (loseSlot b s).resetAsserted = s.resetAsserted ∧
    (loseSlot b s).powerHold = s.powerHold ∧ (loseSlot b s).txd = s.txd ∧
    (loseSlot b s).dataOut = s.dataOut ∧ (loseSlot b s).config = s.config ∧
    (loseSlot b s).lock = s.lock ∧ (loseSlot b s).port = s.port ∧
    (loseSlot b s).table = s.table ∧ (loseSlot b s).unknownChunks = s.unknownChunks ∧
    (loseSlot b s).items = s.items ∧ (loseSlot b s).appliedSinceMark = s.appliedSinceMark ∧
    (loseSlot b s).pendingClear = s.pendingClear ∧
    (loseSlot b s).lastDivergence = s.lastDivergence ∧
    (loseSlot b s).discardedOwn = s.discardedOwn ∧ (loseSlot b s).running = s.running ∧
    (loseSlot b s).runningDiscarded = s.runningDiscarded ∧
    (loseSlot b s).fdatClaim = s.fdatClaim ∧ (loseSlot b s).portClaim = s.portClaim ∧
    (loseSlot b s).staging = s.staging ∧ (loseSlot b s).applyPending = s.applyPending ∧
    (loseSlot b s).results = s.results ∧ (loseSlot b s).needed = s.needed ∧
    (loseSlot b s).link = s.link ∧ (loseSlot b s).txFrame = s.txFrame ∧
    (loseSlot b s).fdatCopy = s.fdatCopy ∧ (loseSlot b s).seedAttempts = s.seedAttempts ∧
    (loseSlot b s).groupAttempts = s.groupAttempts ∧
    (loseSlot b s).answerAttempts = s.answerAttempts ∧ (loseSlot b s).seedTimer = s.seedTimer ∧
    (loseSlot b s).requestTimer = s.requestTimer ∧ (loseSlot b s).groupTimer = s.groupTimer ∧
    (loseSlot b s).answerTimer = s.answerTimer ∧ (loseSlot b s).yield = s.yield ∧
    (loseSlot b s).mismatch = s.mismatch ∧ (loseSlot b s).framing = s.framing ∧
    (loseSlot b s).rxFrame = s.rxFrame ∧ (loseSlot b s).windowDecision = s.windowDecision ∧
    (loseSlot b s).groupBuffer = s.groupBuffer ∧ (loseSlot b s).takeAbandoned = s.takeAbandoned ∧
    (loseSlot b s).station = s.station ∧ (loseSlot b s).requests = s.requests ∧
    (loseSlot b s).answers = s.answers ∧ (loseSlot b s).seedSlot = s.seedSlot ∧
    (loseSlot b s).teardownPending = s.teardownPending ∧ (loseSlot b s).latches = s.latches ∧
    (loseSlot b s).details = s.details ∧ (loseSlot b s).attnMode = s.attnMode ∧
    (loseSlot b s).attnMask = s.attnMask ∧ (loseSlot b s).attn = s.attn := by
  unfold loseSlot; split <;> simp

/-- What `startSlot` leaves unchanged, and what it sets whatever the case. -/
@[simp] theorem startSlot_fields (f : TxFrame) (s : State) :
    (startSlot f s).pending = s.pending ∧ (startSlot f s).resetAsserted = s.resetAsserted ∧
    (startSlot f s).powerHold = s.powerHold ∧ (startSlot f s).txd = s.txd ∧
    (startSlot f s).dataOut = s.dataOut ∧ (startSlot f s).config = s.config ∧
    (startSlot f s).lock = s.lock ∧ (startSlot f s).port = s.port ∧
    (startSlot f s).table = s.table ∧ (startSlot f s).unknownChunks = s.unknownChunks ∧
    (startSlot f s).items = s.items ∧ (startSlot f s).appliedSinceMark = s.appliedSinceMark ∧
    (startSlot f s).pendingClear = s.pendingClear ∧
    (startSlot f s).lastDivergence = s.lastDivergence ∧
    (startSlot f s).discardedOwn = s.discardedOwn ∧ (startSlot f s).running = s.running ∧
    (startSlot f s).runningDiscarded = s.runningDiscarded ∧
    (startSlot f s).portClaim = s.portClaim ∧ (startSlot f s).staging = s.staging ∧
    (startSlot f s).applyPending = s.applyPending ∧ (startSlot f s).results = s.results ∧
    (startSlot f s).needed = s.needed ∧ (startSlot f s).link = s.link ∧
    (startSlot f s).txFrame = s.txFrame ∧ (startSlot f s).seedAttempts = s.seedAttempts ∧
    (startSlot f s).groupAttempts = s.groupAttempts ∧
    (startSlot f s).answerAttempts = s.answerAttempts ∧ (startSlot f s).seedTimer = s.seedTimer ∧
    (startSlot f s).requestTimer = s.requestTimer ∧ (startSlot f s).groupTimer = s.groupTimer ∧
    (startSlot f s).answerTimer = s.answerTimer ∧ (startSlot f s).yield = s.yield ∧
    (startSlot f s).mismatch = s.mismatch ∧ (startSlot f s).framing = s.framing ∧
    (startSlot f s).rxFrame = s.rxFrame ∧ (startSlot f s).windowDecision = s.windowDecision ∧
    (startSlot f s).groupBuffer = s.groupBuffer ∧
    (startSlot f s).takeAbandoned = s.takeAbandoned ∧ (startSlot f s).station = s.station ∧
    (startSlot f s).requests = s.requests ∧ (startSlot f s).answers = s.answers ∧
    (startSlot f s).seedSlot = s.seedSlot ∧ (startSlot f s).teardownPending = s.teardownPending ∧
    (startSlot f s).latches = s.latches ∧ (startSlot f s).details = s.details ∧
    (startSlot f s).attnMode = s.attnMode ∧ (startSlot f s).attnMask = s.attnMask ∧
    (startSlot f s).attn = s.attn := by
  unfold startSlot; split <;> simp

/-- What `winKey` leaves unchanged, and what it sets whatever the case. -/
@[simp] theorem winKey_fields (f : TxFrame) (s : State) :
    (winKey f s).pending = s.pending ∧ (winKey f s).resetAsserted = s.resetAsserted ∧
    (winKey f s).powerHold = s.powerHold ∧ (winKey f s).txd = (keyLevels (txKey f)) ∧
    (winKey f s).dataOut = s.dataOut ∧ (winKey f s).config = s.config ∧
    (winKey f s).lock = s.lock ∧ (winKey f s).port = s.port ∧ (winKey f s).table = s.table ∧
    (winKey f s).unknownChunks = s.unknownChunks ∧ (winKey f s).items = s.items ∧
    (winKey f s).appliedSinceMark = s.appliedSinceMark ∧
    (winKey f s).pendingClear = s.pendingClear ∧ (winKey f s).lastDivergence = s.lastDivergence ∧
    (winKey f s).discardedOwn = s.discardedOwn ∧ (winKey f s).running = s.running ∧
    (winKey f s).runningDiscarded = s.runningDiscarded ∧ (winKey f s).fdatClaim = s.fdatClaim ∧
    (winKey f s).portClaim = s.portClaim ∧ (winKey f s).staging = s.staging ∧
    (winKey f s).applyPending = s.applyPending ∧ (winKey f s).results = s.results ∧
    (winKey f s).needed = s.needed ∧ (winKey f s).link = .sending ∧
    (winKey f s).txFrame = s.txFrame ∧ (winKey f s).fdatCopy = s.fdatCopy ∧
    (winKey f s).seedAttempts = s.seedAttempts ∧ (winKey f s).groupAttempts = s.groupAttempts ∧
    (winKey f s).answerAttempts = s.answerAttempts ∧ (winKey f s).seedTimer = s.seedTimer ∧
    (winKey f s).requestTimer = s.requestTimer ∧ (winKey f s).groupTimer = s.groupTimer ∧
    (winKey f s).answerTimer = s.answerTimer ∧ (winKey f s).yield = s.yield ∧
    (winKey f s).mismatch = s.mismatch ∧ (winKey f s).framing = s.framing ∧
    (winKey f s).rxFrame = s.rxFrame ∧ (winKey f s).windowDecision = s.windowDecision ∧
    (winKey f s).groupBuffer = s.groupBuffer ∧ (winKey f s).takeAbandoned = s.takeAbandoned ∧
    (winKey f s).station = s.station ∧ (winKey f s).requests = s.requests ∧
    (winKey f s).answers = s.answers ∧ (winKey f s).seedSlot = s.seedSlot ∧
    (winKey f s).teardownPending = s.teardownPending ∧ (winKey f s).latches = s.latches ∧
    (winKey f s).details = s.details ∧ (winKey f s).attnMode = s.attnMode ∧
    (winKey f s).attnMask = s.attnMask ∧ (winKey f s).attn = s.attn := by
  unfold winKey; dsimp only; split <;> simp

/-- What `takeFrame` leaves unchanged, and what it sets whatever the case. -/
@[simp] theorem takeFrame_fields (s : State) :
    (takeFrame s).pending = s.pending ∧ (takeFrame s).resetAsserted = s.resetAsserted ∧
    (takeFrame s).powerHold = s.powerHold ∧ (takeFrame s).txd = [.recessive] ∧
    (takeFrame s).dataOut = s.dataOut ∧ (takeFrame s).config = s.config ∧
    (takeFrame s).lock = s.lock ∧ (takeFrame s).port = s.port ∧ (takeFrame s).table = s.table ∧
    (takeFrame s).unknownChunks = s.unknownChunks ∧ (takeFrame s).items = s.items ∧
    (takeFrame s).appliedSinceMark = 0 ∧ (takeFrame s).pendingClear = s.pendingClear ∧
    (takeFrame s).lastDivergence = s.lastDivergence ∧
    (takeFrame s).discardedOwn = s.discardedOwn ∧ (takeFrame s).running = s.running ∧
    (takeFrame s).runningDiscarded = s.runningDiscarded ∧ (takeFrame s).fdatClaim = s.fdatClaim ∧
    (takeFrame s).portClaim = s.portClaim ∧ (takeFrame s).staging = s.staging ∧
    (takeFrame s).committed = s.committed ∧ (takeFrame s).applyPending = s.applyPending ∧
    (takeFrame s).results = s.results ∧ (takeFrame s).needed = s.needed ∧
    (takeFrame s).link = .receiving ∧ (takeFrame s).txFrame = s.txFrame ∧
    (takeFrame s).fdatCopy = s.fdatCopy ∧ (takeFrame s).seedAttempts = s.seedAttempts ∧
    (takeFrame s).groupAttempts = s.groupAttempts ∧
    (takeFrame s).answerAttempts = s.answerAttempts ∧ (takeFrame s).seedTimer = s.seedTimer ∧
    (takeFrame s).requestTimer = s.requestTimer ∧ (takeFrame s).groupTimer = s.groupTimer ∧
    (takeFrame s).answerTimer = s.answerTimer ∧ (takeFrame s).mismatch = s.mismatch ∧
    (takeFrame s).framing = .taking ∧
    (takeFrame s).rxFrame = (some { own := false, verdict := none }) ∧
    (takeFrame s).windowDecision = none ∧ (takeFrame s).groupBuffer = s.groupBuffer ∧
    (takeFrame s).station = s.station ∧ (takeFrame s).requests = s.requests ∧
    (takeFrame s).answers = s.answers ∧ (takeFrame s).seedSlot = s.seedSlot ∧
    (takeFrame s).teardownPending = s.teardownPending ∧ (takeFrame s).latches = s.latches ∧
    (takeFrame s).details = s.details ∧ (takeFrame s).attnMode = s.attnMode ∧
    (takeFrame s).attnMask = s.attnMask ∧ (takeFrame s).attn = s.attn := by
  unfold takeFrame; dsimp only; split <;> simp

/-- What `breakTake` leaves unchanged, and what it sets whatever the case. -/
@[simp] theorem breakTake_fields (s : State) :
    (breakTake s).pending = s.pending ∧ (breakTake s).resetAsserted = s.resetAsserted ∧
    (breakTake s).powerHold = s.powerHold ∧ (breakTake s).txd = s.txd ∧
    (breakTake s).dataOut = s.dataOut ∧ (breakTake s).config = s.config ∧
    (breakTake s).lock = s.lock ∧ (breakTake s).port = s.port ∧ (breakTake s).table = s.table ∧
    (breakTake s).unknownChunks = s.unknownChunks ∧ (breakTake s).items = s.items ∧
    (breakTake s).appliedSinceMark = s.appliedSinceMark ∧
    (breakTake s).lastDivergence = s.lastDivergence ∧
    (breakTake s).discardedOwn = s.discardedOwn ∧ (breakTake s).running = s.running ∧
    (breakTake s).runningDiscarded = s.runningDiscarded ∧ (breakTake s).fdatClaim = s.fdatClaim ∧
    (breakTake s).portClaim = s.portClaim ∧ (breakTake s).staging = s.staging ∧
    (breakTake s).committed = s.committed ∧ (breakTake s).applyPending = s.applyPending ∧
    (breakTake s).results = s.results ∧ (breakTake s).needed = s.needed ∧
    (breakTake s).link = s.link ∧ (breakTake s).txFrame = s.txFrame ∧
    (breakTake s).fdatCopy = s.fdatCopy ∧ (breakTake s).seedAttempts = s.seedAttempts ∧
    (breakTake s).groupAttempts = s.groupAttempts ∧ (breakTake s).seedTimer = s.seedTimer ∧
    (breakTake s).requestTimer = s.requestTimer ∧ (breakTake s).groupTimer = s.groupTimer ∧
    (breakTake s).yield = s.yield ∧ (breakTake s).mismatch = s.mismatch ∧
    (breakTake s).framing = s.framing ∧ (breakTake s).rxFrame = s.rxFrame ∧
    (breakTake s).windowDecision = s.windowDecision ∧ (breakTake s).takeAbandoned = false ∧
    (breakTake s).station = s.station ∧ (breakTake s).requests = s.requests ∧
    (breakTake s).seedSlot = s.seedSlot ∧ (breakTake s).teardownPending = s.teardownPending ∧
    (breakTake s).latches = s.latches ∧ (breakTake s).details = s.details ∧
    (breakTake s).attnMode = s.attnMode ∧ (breakTake s).attnMask = s.attnMask ∧
    (breakTake s).attn = s.attn := by
  unfold breakTake; split <;> simp_all

/-- What `acceptUpd` leaves unchanged, and what it sets whatever the case. -/
@[simp] theorem acceptUpd_fields (f : Frame) (e : Entry) (s : State) :
    (acceptUpd f e s).pending = s.pending ∧ (acceptUpd f e s).resetAsserted = s.resetAsserted ∧
    (acceptUpd f e s).powerHold = s.powerHold ∧ (acceptUpd f e s).txd = s.txd ∧
    (acceptUpd f e s).dataOut = s.dataOut ∧ (acceptUpd f e s).config = s.config ∧
    (acceptUpd f e s).lock = s.lock ∧ (acceptUpd f e s).port = s.port ∧
    (acceptUpd f e s).table = s.table ∧ (acceptUpd f e s).unknownChunks = s.unknownChunks ∧
    (acceptUpd f e s).appliedSinceMark = s.appliedSinceMark ∧
    (acceptUpd f e s).pendingClear = s.pendingClear ∧
    (acceptUpd f e s).lastDivergence = s.lastDivergence ∧
    (acceptUpd f e s).discardedOwn = s.discardedOwn ∧ (acceptUpd f e s).running = s.running ∧
    (acceptUpd f e s).runningDiscarded = s.runningDiscarded ∧
    (acceptUpd f e s).fdatClaim = s.fdatClaim ∧ (acceptUpd f e s).portClaim = s.portClaim ∧
    (acceptUpd f e s).staging = s.staging ∧ (acceptUpd f e s).committed = s.committed ∧
    (acceptUpd f e s).applyPending = s.applyPending ∧ (acceptUpd f e s).results = s.results ∧
    (acceptUpd f e s).needed = s.needed ∧ (acceptUpd f e s).link = s.link ∧
    (acceptUpd f e s).txFrame = s.txFrame ∧ (acceptUpd f e s).fdatCopy = s.fdatCopy ∧
    (acceptUpd f e s).seedAttempts = s.seedAttempts ∧
    (acceptUpd f e s).groupAttempts = s.groupAttempts ∧
    (acceptUpd f e s).answerAttempts = s.answerAttempts ∧
    (acceptUpd f e s).seedTimer = s.seedTimer ∧ (acceptUpd f e s).requestTimer = s.requestTimer ∧
    (acceptUpd f e s).groupTimer = s.groupTimer ∧ (acceptUpd f e s).answerTimer = s.answerTimer ∧
    (acceptUpd f e s).yield = s.yield ∧ (acceptUpd f e s).mismatch = s.mismatch ∧
    (acceptUpd f e s).framing = s.framing ∧ (acceptUpd f e s).rxFrame = s.rxFrame ∧
    (acceptUpd f e s).windowDecision = s.windowDecision ∧
    (acceptUpd f e s).takeAbandoned = s.takeAbandoned ∧ (acceptUpd f e s).station = s.station ∧
    (acceptUpd f e s).requests = s.requests ∧ (acceptUpd f e s).answers = s.answers ∧
    (acceptUpd f e s).seedSlot = s.seedSlot ∧
    (acceptUpd f e s).teardownPending = s.teardownPending ∧
    (acceptUpd f e s).latches = s.latches ∧ (acceptUpd f e s).details = s.details ∧
    (acceptUpd f e s).attnMode = s.attnMode ∧ (acceptUpd f e s).attnMask = s.attnMask ∧
    (acceptUpd f e s).attn = s.attn := by
  unfold acceptUpd; dsimp only; split <;> simp

/-- What `ownGroupAccepted` leaves unchanged, and what it sets whatever the case. -/
@[simp] theorem ownGroupAccepted_fields (f : Frame) (s : State) :
    (ownGroupAccepted f s).pending = s.pending ∧
    (ownGroupAccepted f s).resetAsserted = s.resetAsserted ∧
    (ownGroupAccepted f s).powerHold = s.powerHold ∧ (ownGroupAccepted f s).txd = s.txd ∧
    (ownGroupAccepted f s).dataOut = s.dataOut ∧ (ownGroupAccepted f s).config = s.config ∧
    (ownGroupAccepted f s).lock = s.lock ∧ (ownGroupAccepted f s).port = s.port ∧
    (ownGroupAccepted f s).table = s.table ∧
    (ownGroupAccepted f s).unknownChunks = s.unknownChunks ∧
    (ownGroupAccepted f s).appliedSinceMark = s.appliedSinceMark ∧
    (ownGroupAccepted f s).pendingClear = s.pendingClear ∧
    (ownGroupAccepted f s).lastDivergence = s.lastDivergence ∧
    (ownGroupAccepted f s).discardedOwn = s.discardedOwn ∧
    (ownGroupAccepted f s).running = s.running ∧
    (ownGroupAccepted f s).runningDiscarded = s.runningDiscarded ∧
    (ownGroupAccepted f s).fdatClaim = s.fdatClaim ∧
    (ownGroupAccepted f s).portClaim = s.portClaim ∧ (ownGroupAccepted f s).staging = s.staging ∧
    (ownGroupAccepted f s).results = s.results ∧ (ownGroupAccepted f s).needed = s.needed ∧
    (ownGroupAccepted f s).link = s.link ∧ (ownGroupAccepted f s).txFrame = s.txFrame ∧
    (ownGroupAccepted f s).fdatCopy = s.fdatCopy ∧
    (ownGroupAccepted f s).seedAttempts = s.seedAttempts ∧
    (ownGroupAccepted f s).groupAttempts = s.groupAttempts ∧
    (ownGroupAccepted f s).answerAttempts = s.answerAttempts ∧
    (ownGroupAccepted f s).seedTimer = s.seedTimer ∧
    (ownGroupAccepted f s).requestTimer = s.requestTimer ∧
    (ownGroupAccepted f s).answerTimer = s.answerTimer ∧ (ownGroupAccepted f s).yield = s.yield ∧
    (ownGroupAccepted f s).mismatch = s.mismatch ∧ (ownGroupAccepted f s).framing = s.framing ∧
    (ownGroupAccepted f s).rxFrame = s.rxFrame ∧
    (ownGroupAccepted f s).windowDecision = s.windowDecision ∧
    (ownGroupAccepted f s).groupBuffer = s.groupBuffer ∧
    (ownGroupAccepted f s).takeAbandoned = s.takeAbandoned ∧
    (ownGroupAccepted f s).station = s.station ∧ (ownGroupAccepted f s).requests = s.requests ∧
    (ownGroupAccepted f s).answers = s.answers ∧ (ownGroupAccepted f s).seedSlot = s.seedSlot ∧
    (ownGroupAccepted f s).teardownPending = s.teardownPending ∧
    (ownGroupAccepted f s).latches = s.latches ∧ (ownGroupAccepted f s).details = s.details ∧
    (ownGroupAccepted f s).attnMode = s.attnMode ∧ (ownGroupAccepted f s).attnMask = s.attnMask ∧
    (ownGroupAccepted f s).attn = s.attn := by
  unfold ownGroupAccepted; split <;> simp

end Sys2Proof.Machine
end

