-- ==== Sys2Proof/Laws/Line.lean ====
section
/-!
SUPPORT. Laws/Line.lean: what an own frame puts on TXD, in the words of the statements.
-/
namespace Sys2Proof.Machine

theorem keyLevels_eq_lineKey (key : BitVec 7) : keyLevels key = lineKey key := rfl

theorem flatMap_byteLevels_eq_lineBytes (bytes : List Byte) :
    bytes.flatMap byteLevels = lineBytes bytes := by
  unfold lineBytes; congr 1

theorem windowLevels_eq_lineWindow (slot : SlotChoice) : windowLevels slot = lineWindow slot := by
  cases slot <;> rfl

theorem txLevels_eq_ownLine (f : TxFrame) (copy : Option ChunkData) :
    txLevels f copy = ownLine f copy := by
  have hk : ∀ c, txContents f copy = some c → txKey f = (rawFrame c).key := by
    intro c h
    unfold txContents at h
    cases hb : f.body <;> rw [hb] at h <;> dsimp only at h
    on_goal 4 => rw [Option.map_eq_some_iff] at h; obtain ⟨_, _, h⟩ := h
    on_goal 4 => subst h; simp only [txKey, hb, rawFrame, txKind, bodyKind]
    all_goals (obtain rfl := Option.some.inj h; simp only [txKey, hb, rawFrame, txKind, bodyKind])
  unfold txLevels ownLine
  cases h : txContents f copy with
  | none => dsimp only; rw [flatMap_byteLevels_eq_lineBytes]; rfl
  | some c => dsimp only; rw [hk c h]; unfold frameLevels; rw [flatMap_byteLevels_eq_lineBytes]; rfl

/-- From its key's first bit to the bit of a key that is lost, an own frame's levels are its key's. -/
theorem levelsTo_contending {s : State} (h : s.link = .contending) (f : TxFrame) (k : Fin 7) :
    levelsTo (k.val + 1) f s = (lineKey (txKey f)).take (k.val + 1) := by
  have hb : bitsBehind s.link f = 1 := by simp [bitsBehind, h]
  unfold levelsTo
  rw [hb, txLevels_eq_ownLine]
  unfold ownLine
  generalize lineBytes _ = l
  have hl : (lineKey (txKey f)).length = 7 := rfl
  simp [List.take_append, List.take_succ_cons, hl, show k.val + 1 - 7 = 0 by omega]

/-- At a mismatch in the frame: its levels from the last step of the line to that bit, the start mark
counted with the step that drove it unless it is the bit itself. -/
theorem levelsTo_eq {n : Nat} {f : TxFrame} {s : State} (h : n = 0 ∨ bitsBehind s.link f ≤ n) :
    levelsTo n f s = if n = 0 then [.dominant]
      else ((ownLine f s.fdatCopy).take (n + 1)).drop (bitsBehind s.link f) := by
  unfold levelsTo
  rw [txLevels_eq_ownLine]
  rcases Nat.eq_zero_or_pos n with h0 | h0
  · subst h0; simp [ownLine]
  · rw [if_neg (by omega), Nat.min_eq_right (by omega)]

end Sys2Proof.Machine
end

