-- ==== Sys2Proof/Laws/Replica.lean ====
section
/-!
SUPPORT. Laws/Replica.lean: what each operation on the replica does, cell by cell, and what the
summaries of a replica say about its cells.
-/
namespace Sys2Proof.Machine

/-! ### Cells -/

theorem cellAt_setCell (t : Table) (i : Byte) (c : Cell) (j : Byte) :
    cellAt (setCell t i c) j = if j = i then c else cellAt t j := by
  unfold cellAt setCell
  by_cases h : j = i
  · subst h; simp
  · have h' : i.toNat ≠ j.toNat := fun e => h (BitVec.eq_of_toNat_eq e.symm)
    simp [h, h']

theorem cellAt_mapCells (f : Byte → Cell → Cell) (t : Table) (j : Byte) :
    cellAt (mapCells f t) j = f j (cellAt t j) := by
  unfold cellAt mapCells
  simp

/-- Two replicas with the same cells are the same replica. -/
theorem table_ext {a b : Table} (h : ∀ i, cellAt a i = cellAt b i) : a = b := by
  cases a with
  | mk ca sa =>
    cases b with
    | mk cb sb =>
      congr 1
      apply List.ext_getElem
      · simp [sa, sb]
      · intro n h1 h2
        have hn : n < 256 := by omega
        have := h (BitVec.ofNat 8 n)
        simpa [cellAt, Nat.mod_eq_of_lt hn] using this

theorem cellAt_initial (i : Byte) : cellAt Table.initial i = Cell.initial := by
  exact List.getElem_replicate _

theorem cellAt_makeUnknown (t : Table) (i j : Byte) :
    cellAt (makeUnknown t i) j = if j = i then unknownCell (cellAt t i) else cellAt t j := by
  simp [makeUnknown, cellAt_setCell]

theorem cellAt_clearAll (t : Table) (j : Byte) :
    cellAt (clearAll t) j = unknownCell (cellAt t j) := by
  simp [clearAll, cellAt_mapCells]

theorem cellAt_seedAll (t : Table) (j : Byte) :
    cellAt (seedAll t) j = adoptRecord .zero (cellAt t j) := by
  simp [seedAll, cellAt_mapCells]

theorem cellAt_adoptChunk (t : Table) (c : Chunk) (d : ChunkData) (j : Byte) :
    cellAt (adoptChunk t c d) j =
      if chunkOfCell j = c then adoptRecord (carriedRecord d j) (cellAt t j) else cellAt t j := by
  simp [adoptChunk, cellAt_mapCells]

theorem cellAt_setWatch (t : Table) (first : Byte) (n : Nat) (on : Bool) (j : Byte) :
    cellAt (setWatch t first n on) j =
      if inRange first n j then { cellAt t j with watch := on } else cellAt t j := by
  simp [setWatch, cellAt_mapCells]

theorem cellAt_clearChanged (t : Table) (j : Byte) :
    cellAt (clearChanged t) j = { cellAt t j with changed := false } := by
  simp [clearChanged, cellAt_mapCells]

theorem cellAt_takeCopy (t copy : Table) (j : Byte) :
    cellAt (takeCopy t copy) j =
      { cellAt t j with
        record := (cellAt copy j).record
        changed := (cellAt t j).changed || (cellAt copy j).record != (cellAt t j).record } := by
  simp [takeCopy, cellAt_mapCells]

/-- A write touches its cell alone, and there only when the value or the owner changes (R30). -/
theorem cellAt_writeCell (t : Table) (i : Byte) (v : Value) (o : Owner) (j : Byte) :
    cellAt (writeCell t i v o) j =
      if j = i ∧ ¬ (v = (cellAt t i).record.value ∧ o = (cellAt t i).record.owner) then
        { cellAt t i with
          record := { value := v, owner := o, seq := (cellAt t i).record.seq + 1 }
          changed := true }
      else cellAt t j := by
  unfold writeCell
  dsimp only
  split
  · next h => simp [h]
  · next h => simp [cellAt_setCell, h]

/-- Every target of a group becomes UNKNOWN, and no other cell is touched (R38). -/
theorem cellAt_loseTargets (entries : List Entry) (t : Table) (j : Byte) :
    cellAt (loseTargets entries t) j =
      if j ∈ entries.map Entry.cell then unknownCell (cellAt t j) else cellAt t j := by
  unfold loseTargets
  induction entries generalizing t with
  | nil => simp
  | cons e es ih =>
    have idem : ∀ c : Cell, unknownCell (unknownCell c) = unknownCell c := by
      intro c; cases h : c.known <;> simp [unknownCell, h]
    simp only [List.foldl_cons, ih, cellAt_makeUnknown, List.map_cons, List.mem_cons]
    by_cases h1 : j = e.cell
    · subst h1; by_cases h2 : e.cell ∈ es.map Entry.cell <;> simp [h2, idem]
    · simp [h1]

/-! ### Chunks and summaries -/

theorem getElem_chunkCells (t : Table) (c : Chunk) (k : Nat) (h : k < (chunkCells t c).length) :
    (chunkCells t c)[k] = cellAt t (BitVec.ofNat 8 (16 * c.val + k)) := by
  have hc := c.isLt
  have hk : k < 16 := by
    have : (chunkCells t c).length ≤ 16 := by simp [chunkCells]
    omega
  have hm : (16 * c.val + k) % 256 = 16 * c.val + k := by omega
  simp [chunkCells, cellAt, hm]

theorem length_chunkCells (t : Table) (c : Chunk) : (chunkCells t c).length = 16 := by
  have := c.isLt
  simp [chunkCells, t.size]; omega

theorem chunkOfCell_ofNat (c : Chunk) (k : Nat) (h : k < 16) :
    chunkOfCell (BitVec.ofNat 8 (16 * c.val + k)) = c := by
  have hc := c.isLt
  apply Fin.ext
  have hm : (16 * c.val + k) % 256 = 16 * c.val + k := by omega
  simp [chunkOfCell, hm]; omega

/-- A statement about the cells of a chunk is one about the cells whose chunk it is. -/
theorem exists_mem_chunk (c : Chunk) (P : Byte → Prop) :
    (∃ k, k < 16 ∧ P (BitVec.ofNat 8 (16 * c.val + k))) ↔ ∃ i, chunkOfCell i = c ∧ P i := by
  constructor
  · rintro ⟨k, hk, hp⟩
    exact ⟨_, chunkOfCell_ofNat c k hk, hp⟩
  · rintro ⟨i, hi, hp⟩
    have h1 : i.toNat / 16 = c.val := by rw [← hi]; rfl
    have h2 : 16 * c.val + i.toNat % 16 = i.toNat := by omega
    refine ⟨i.toNat % 16, by omega, ?_⟩
    rw [h2]; simpa using hp

theorem mem_chunkCells (t : Table) (c : Chunk) (x : Cell) :
    x ∈ chunkCells t c ↔ ∃ i, chunkOfCell i = c ∧ cellAt t i = x := by
  rw [← exists_mem_chunk c (fun i => cellAt t i = x), List.mem_iff_getElem]
  constructor
  · rintro ⟨k, hk, hx⟩
    exact ⟨k, by rw [length_chunkCells] at hk; exact hk, by rw [← hx, getElem_chunkCells]⟩
  · rintro ⟨k, hk, hx⟩
    exact ⟨k, by rw [length_chunkCells]; exact hk, by rw [getElem_chunkCells]; exact hx⟩

theorem chunkUnknown_iff (t : Table) (c : Chunk) :
    chunkUnknown t c = true ↔ ∃ i, chunkOfCell i = c ∧ (cellAt t i).known = false := by
  unfold chunkUnknown
  rw [List.any_eq_true]
  constructor
  · rintro ⟨x, hx, hk⟩
    obtain ⟨i, hi, rfl⟩ := (mem_chunkCells t c x).1 hx
    exact ⟨i, hi, by simpa using hk⟩
  · rintro ⟨i, hi, hk⟩
    exact ⟨cellAt t i, (mem_chunkCells t c _).2 ⟨i, hi, rfl⟩, by simpa using hk⟩

theorem mem_allChunks (c : Chunk) : c ∈ allChunks := by revert c; decide

theorem mem_unknownSummary (t : Table) (c : Chunk) :
    c ∈ unknownSummary t ↔ ∃ i, chunkOfCell i = c ∧ (cellAt t i).known = false := by
  simp [unknownSummary, mem_allChunks, chunkUnknown_iff]

theorem unknownSummary_eq_nil (t : Table) :
    unknownSummary t = [] ↔ ∀ i, (cellAt t i).known = true := by
  rw [List.eq_nil_iff_forall_not_mem]
  constructor
  · intro h i
    by_contra hk
    exact h (chunkOfCell i) ((mem_unknownSummary t _).2 ⟨i, rfl, by simpa using hk⟩)
  · intro h c hc
    obtain ⟨i, _, hk⟩ := (mem_unknownSummary t c).1 hc
    simp [h i] at hk

/-- The summary depends on the statuses alone. -/
theorem unknownSummary_congr {a b : Table} (h : ∀ i, (cellAt a i).known = (cellAt b i).known) :
    unknownSummary a = unknownSummary b := by
  unfold unknownSummary
  congr 1
  funext c
  rw [Bool.eq_iff_iff, chunkUnknown_iff, chunkUnknown_iff]
  simp [h]

theorem mem_zip_chunks (a b : Table) (c : Chunk) (p : Cell × Cell) :
    p ∈ List.zip (chunkCells a c) (chunkCells b c) ↔
      ∃ i, chunkOfCell i = c ∧ (cellAt a i, cellAt b i) = p := by
  rw [← exists_mem_chunk c (fun i => (cellAt a i, cellAt b i) = p), List.mem_iff_getElem]
  constructor
  · rintro ⟨k, hk, hx⟩
    have hk' : k < 16 := by simpa [length_chunkCells] using hk
    exact ⟨k, hk', by rw [← hx]; simp [getElem_chunkCells]⟩
  · rintro ⟨k, hk, hx⟩
    exact ⟨k, by simpa [length_chunkCells] using hk, by rw [← hx]; simp [getElem_chunkCells]⟩

theorem mem_lostChunks (a b : Table) (c : Chunk) :
    c ∈ lostChunks a b ↔
      ∃ i, chunkOfCell i = c ∧ (cellAt a i).known = true ∧ (cellAt b i).known = false := by
  simp only [lostChunks, List.mem_filter, mem_allChunks, true_and, List.any_eq_true]
  constructor
  · rintro ⟨p, hp, hk⟩
    obtain ⟨i, hi, rfl⟩ := (mem_zip_chunks a b c p).1 hp
    exact ⟨i, hi, by simpa using hk⟩
  · rintro ⟨i, hi, hk⟩
    exact ⟨_, (mem_zip_chunks a b c _).2 ⟨i, hi, rfl⟩, by simpa using hk⟩

theorem lostChunks_eq_nil (a b : Table) :
    lostChunks a b = [] ↔ ∀ i, (cellAt a i).known = true → (cellAt b i).known = true := by
  rw [List.eq_nil_iff_forall_not_mem]
  constructor
  · intro h i ha
    by_contra hb
    exact h (chunkOfCell i) ((mem_lostChunks a b _).2 ⟨i, rfl, ha, by simpa using hb⟩)
  · intro h c hc
    obtain ⟨i, _, ha, hb⟩ := (mem_lostChunks a b c).1 hc
    simp [h i ha] at hb

theorem anyGained_iff (a b : Table) :
    anyGained a b = true ↔ ∃ i, (cellAt a i).known = false ∧ (cellAt b i).known = true := by
  unfold anyGained
  rw [List.any_eq_true]
  constructor
  · rintro ⟨p, hp, hk⟩
    obtain ⟨n, hn, rfl⟩ := List.mem_iff_getElem.1 hp
    have hn' : n < 256 := by simpa [a.size, b.size] using hn
    refine ⟨BitVec.ofNat 8 n, ?_⟩
    simpa [cellAt, Nat.mod_eq_of_lt hn'] using hk
  · rintro ⟨i, hk⟩
    have hi := i.isLt
    refine ⟨(cellAt a i, cellAt b i), ?_, by simpa using hk⟩
    rw [List.mem_iff_getElem]
    exact ⟨i.toNat, by simpa [a.size, b.size] using hi, by simp [cellAt]⟩

end Sys2Proof.Machine
end

