-- ==== Sys2Proof/Laws/Lists.lean ====
section
/-!
SUPPORT. Laws/Lists.lean: what the operations on the request list do, entry by entry, and which chunks
a group needs.
-/
namespace Sys2Proof.Machine

/-! ### The request list (R102 to R108) -/

/-- In an ordered list, the entry of a chunk is the one found for it. -/
theorem findRequest_eq_some {l : List Request} (h : RequestsOrdered l) (c : Chunk) (r : Request) :
    findRequest l c = some r ↔ r ∈ l ∧ r.chunk = c := by
  induction l with
  | nil => simp [findRequest]
  | cons a l ih =>
    have hl := ih (List.pairwise_cons.1 h).2
    have ha := (List.pairwise_cons.1 h).1
    by_cases hc : a.chunk = c
    · simp only [findRequest, List.find?_cons, hc, beq_self_eq_true, Option.some.injEq,
        List.mem_cons]
      constructor
      · rintro rfl; exact ⟨Or.inl rfl, hc⟩
      · rintro ⟨rfl | hm, hr⟩
        · rfl
        · have := ha r hm; rw [hc, hr] at this; exact absurd this (lt_irrefl _)
    · have hb : (a.chunk == c) = false := by simpa using hc
      simp only [findRequest, List.find?_cons, hb, List.mem_cons] at hl ⊢
      rw [hl]
      constructor
      · rintro ⟨hm, hr⟩; exact ⟨Or.inr hm, hr⟩
      · rintro ⟨rfl | hm, hr⟩
        · exact absurd hr hc
        · exact ⟨hm, hr⟩

theorem findRequest_eq_none (l : List Request) (c : Chunk) :
    findRequest l c = none ↔ ∀ r ∈ l, r.chunk ≠ c := by
  simp [findRequest]

theorem isWanted_iff (l : List Request) (c : Chunk) :
    isWanted l c = true ↔ ∃ r ∈ l, r.chunk = c ∧ r.state = .wanted := by
  simp [isWanted]

theorem allChunks_sorted : allChunks.Pairwise (· < ·) := by decide

/-- Adding chunks to an ordered list (R102, R103). -/
theorem withWanted_spec {l : List Request} (h : RequestsOrdered l) (chunks : List Chunk) :
    WantedAdded chunks l (withWanted l chunks) := by
  have hp : ∀ c r, (match findRequest l c with
      | some r => some r
      | none => if chunks.contains c then some (newRequest c) else none) = some r → r.chunk = c := by
    intro c r hr
    cases hf : findRequest l c with
    | some q =>
      simp only [hf, Option.some.injEq] at hr
      subst hr
      exact ((findRequest_eq_some h c q).1 hf).2
    | none =>
      simp only [hf] at hr
      split at hr
      · simp only [Option.some.injEq] at hr; subst hr; rfl
      · exact absurd hr (by simp)
  constructor
  · unfold withWanted
    rw [List.pairwise_filterMap]
    refine allChunks_sorted.imp ?_
    intro c d hcd r hr q hq
    rw [hp c r hr, hp d q hq]; exact hcd
  · intro r
    unfold withWanted
    rw [List.mem_filterMap]
    constructor
    · rintro ⟨c, _, hr⟩
      have hrc := hp c r hr
      cases hf : findRequest l c with
      | some q =>
        simp only [hf, Option.some.injEq] at hr
        subst hr
        exact Or.inl ((findRequest_eq_some h c q).1 hf).1
      | none =>
        simp only [hf] at hr
        split at hr
        · next hm =>
          simp only [Option.some.injEq] at hr
          subst hr
          exact Or.inr ⟨rfl, List.contains_iff_mem.1 hm, (findRequest_eq_none l c).1 hf⟩
        · exact absurd hr (by simp)
    · rintro (hm | ⟨he, hm, hn⟩)
      · refine ⟨r.chunk, mem_allChunks _, ?_⟩
        rw [(findRequest_eq_some h r.chunk r).2 ⟨hm, rfl⟩]
      · refine ⟨r.chunk, mem_allChunks _, ?_⟩
        rw [(findRequest_eq_none l r.chunk).2 hn]
        simp only [List.contains_iff_mem, hm, if_true]
        rw [he]; rfl

/-- Adding chunks stops no timer of the request slot (R103, R72). -/
theorem filter_withWanted {s : State} (h : RequestsOrdered s.requests) (ht : RequestTimerFits s)
    (chunks : List Chunk) :
    s.requestTimer.filter (fun t => isWanted (withWanted s.requests chunks) t.chunk)
      = s.requestTimer := by
  cases hr : s.requestTimer with
  | none => rfl
  | some t =>
    obtain ⟨r, hm, hc, hw⟩ := ht t hr
    rw [Option.filter_some_pos]
    rw [isWanted_iff]
    exact ⟨r, ((withWanted_spec h chunks).2 r).2 (Or.inl hm), hc, hw⟩

/-- Ordered lists with the same entries are the same list. -/
theorem requests_ext {a b : List Request} (ha : RequestsOrdered a) (hb : RequestsOrdered b)
    (h : ∀ r, r ∈ a ↔ r ∈ b) : a = b := by
  have na : a.Nodup := ha.imp fun hlt e => absurd (e ▸ hlt) (lt_irrefl _)
  have nb : b.Nodup := hb.imp fun hlt e => absurd (e ▸ hlt) (lt_irrefl _)
  refine List.Perm.eq_of_pairwise ?_ ha hb ((List.perm_ext_iff_of_nodup na nb).2 h)
  intro x y _ _ hxy hyx
  exact absurd (hxy.trans hyx) (lt_irrefl _)

/-- Adding chunks that are all in the list already, or none, changes nothing. -/
theorem withWanted_nil {l : List Request} (h : RequestsOrdered l) : withWanted l [] = l :=
  requests_ext (withWanted_spec h []).1 h fun r => by simp [(withWanted_spec h []).2 r]

theorem addWanted_eq {s : State} (h : RequestsOrdered s.requests) (ht : RequestTimerFits s)
    (chunks : List Chunk) :
    addWanted chunks s = { s with requests := withWanted s.requests chunks } := by
  simp only [addWanted, setRequests, filter_withWanted h ht]

/-! ### Needed chunks (R119, R124) -/

theorem mem_namedCells (e : Entry) (i : Byte) : i ∈ namedCells e ↔ Names e i := by
  unfold namedCells Names sourceCell lowByte
  cases e.source <;> simp

theorem namedKnown_iff (t : Table) (e : Entry) :
    namedKnown t e = true ↔ ∀ i, Names e i → (cellAt t i).known = true := by
  simp [namedKnown, List.all_eq_true, mem_namedCells]

theorem mem_neededChunks (t : Table) (entries : List Entry) (c : Chunk) :
    c ∈ neededChunks t entries ↔ ∃ e ∈ entries, ∃ i, Names e i ∧ chunkOfCell i = c
      ∧ (cellAt t i).known = false := by
  simp [neededChunks, mem_allChunks, mem_namedCells]

theorem neededChunks_sorted (t : Table) (entries : List Entry) :
    (neededChunks t entries).Pairwise (· < ·) := allChunks_sorted.filter _

/-! ### Legality (R21) -/

theorem entryLegal_iff (k : Nat) (e : Entry) : entryLegal k e = true ↔ ¬ Illegal k e := by
  unfold entryLegal Illegal highByte
  by_cases h1 : e.ownerAction = .illegal <;> by_cases h2 : e.chain = true <;>
    by_cases h3 : k = 0 <;> by_cases h4 : e.plain = true <;> by_cases h5 : e.source = .cell <;>
    simp [h1, h2, h3, h4, h5]

end Sys2Proof.Machine
end

