-- ==== Sys2Proof/Laws/Port.lean ====
section
/-!
SUPPORT. Laws/Port.lean: what the arbiter does and when it does nothing, and what it comes to when the
processor writes a command's code byte and parameter bytes to a port that can take one.
-/
namespace Sys2Proof.Machine

/-! ### The arbiter (R13) -/

theorem settle_of_running {s : State} (h : s.running.isSome = true) : settle s = s := by
  simp [settle, h]

theorem settle_of_no_claim {s : State} (h : nextGrant s = none) : settle s = s := by
  unfold settle; split <;> simp [h]

/-- No claim waits exactly when each of Table 1-4 is absent (R13). -/
theorem nextGrant_eq_none_iff (s : State) :
    nextGrant s = none ↔ s.teardownPending = false ∧ s.pendingClear ≠ some 0 ∧ s.items = []
      ∧ s.fdatClaim = none ∧ s.portClaim = none := by
  unfold nextGrant
  cases s.teardownPending <;> by_cases hc : s.pendingClear = some 0 <;>
    by_cases hi : s.items = [] <;> cases s.fdatClaim <;> cases s.portClaim <;> simp [hc, hi]

/-- The arbiter is settled exactly when a grant runs or no claim waits. -/
theorem arbiterSettled_iff (s : State) :
    ArbiterSettled s ↔ s.running.isSome = true ∨ nextGrant s = none := by
  rw [nextGrant_eq_none_iff]
  unfold ArbiterSettled
  cases s.running <;> simp

/-- At a settled arbiter there is nothing to grant. -/
theorem ArbiterSettled.settle_eq {s : State} (h : ArbiterSettled s) : settle s = s := by
  rcases (arbiterSettled_iff s).1 h with h | h
  · exact settle_of_running h
  · exact settle_of_no_claim h

/-- The arbiter starts a grant at a free port and nothing else. -/
theorem settle_running (s : State) :
    (settle s).running = if s.running.isSome then s.running else nextGrant s := by
  unfold settle
  split
  · rfl
  · next h =>
    have h' : s.running = none := by simpa using h
    cases hg : nextGrant s <;> simp [h']

/-- The arbiter is settled exactly when serving it changes nothing. -/
theorem arbiterSettled_iff_settle (s : State) : ArbiterSettled s ↔ settle s = s := by
  refine ⟨ArbiterSettled.settle_eq, fun h => ?_⟩
  rw [arbiterSettled_iff]
  have hr := settle_running s
  rw [h] at hr
  cases hs : s.running with
  | some g => exact Or.inl rfl
  | none => rw [hs] at hr; exact Or.inr hr.symm

theorem settle_idem (s : State) : settle (settle s) = settle s := by
  by_cases h : s.running.isSome = true
  · rw [settle_of_running h, settle_of_running h]
  · cases hg : nextGrant s with
    | none => rw [settle_of_no_claim hg, settle_of_no_claim hg]
    | some g =>
      apply settle_of_running
      rw [settle_running]; simp [h, hg]

theorem arbiterSettled_settle (s : State) : ArbiterSettled (settle s) :=
  (arbiterSettled_iff_settle _).2 (settle_idem s)

/-- Two states that agree on what the arbiter reads are settled together. -/
theorem ArbiterSettled.congr {s t : State} (h : ArbiterSettled s) (hr : t.running = s.running)
    (hn : nextGrant t = nextGrant s) : settle t = t := by
  rw [arbiterSettled_iff] at h
  rcases h with h | h
  · exact settle_of_running (hr ▸ h)
  · exact settle_of_no_claim (hn ▸ h)

theorem settle_reset_with (c : ConfigRecord) (l : Bool) (m : AttnMode) (k : Byte) (a : Bool)
    (q : List Instr) (r p : Bool) :
    settle { State.reset with
      pending := q, resetAsserted := r, powerHold := p, config := c, lock := l, attnMode := m, attnMask := k,
      attn := a } = { State.reset with
      pending := q, resetAsserted := r, powerHold := p, config := c, lock := l, attnMode := m, attnMask := k,
      attn := a } := rfl

/-! ### Writing a command (R138) -/

theorem opcodeOfByte_opcodeByte (op : Opcode) : opcodeOfByte (opcodeByte op) = some op := by
  cases op <;> decide

theorem opcodeParams_le (op : Opcode) : opcodeParams op ≤ 14 := by cases op <;> decide

/-- The port with a command's code and some of its parameters taken (R138). -/
def collectingPort (op : Opcode) (ps : List Byte) : Port :=
  { phase := .command, fifo := ps, snapshot := []
    command := some { op := op, needed := opcodeParams op, received := ps.length, wait := none } }

theorem settle_port {s : State} (h : ArbiterSettled s) (p : Port) :
    settle { s with port := p } = { s with port := p } := h.congr rfl rfl

theorem ArbiterSettled.port {s : State} (h : ArbiterSettled s) (p : Port) :
    ArbiterSettled { s with port := p } := h

theorem foldl_acceptByte_collecting (op : Opcode) (ps : List Byte) : ∀ (pre : List Byte) (s : State),
    ArbiterSettled s → inReset s = false → s.port = collectingPort op pre → ps ≠ [] →
    pre.length + ps.length = opcodeParams op →
    ps.foldl acceptByte s = settle (handOver op (pre ++ ps) { s with port := executing op }) := by
  induction ps with
  | nil => intro _ _ _ _ _ h; exact absurd rfl h
  | cons b bs ih =>
    intro pre s hs hr hp _ hlen
    have hw : writeData b s = takeParameters op (pre ++ [b]) s := by
      simp [writeData, hr, hp, collectingPort]
    rw [List.foldl_cons, acceptByte, hw]
    by_cases hb : bs = []
    · subst hb
      have hl : ¬ (pre ++ [b]).length < opcodeParams op := by simp at hlen ⊢; omega
      simp only [takeParameters, if_neg hl, List.foldl_nil]
    · have hpos : 0 < bs.length := List.length_pos_of_ne_nil hb
      have hl : (pre ++ [b]).length < opcodeParams op := by simp at hlen ⊢; omega
      have hs' := settle_port hs (collectingPort op (pre ++ [b]))
      simp only [takeParameters, if_pos hl]
      change List.foldl acceptByte (settle { s with port := collectingPort op (pre ++ [b]) }) bs = _
      rw [hs', ih (pre ++ [b]) _ (hs.port (collectingPort op (pre ++ [b]))) hr rfl hb (by simp at hlen ⊢; omega)]
      simp

/-- A command written whole to a part that can take one is handed over with its parameters, and then
the arbiter is served (R138). -/
theorem issue_ready {s : State} (h : Ready s) (op : Opcode) (ps : List Byte)
    (hl : ps.length = opcodeParams op) :
    issue op ps s = settle (handOver op ps { s with port := executing op }) := by
  obtain ⟨hr, hp, hs⟩ := h
  have hw : writeData (opcodeByte op) s = takeParameters op [] s := by
    simp [writeData, hr, hp, Port.idle, opcodeOfByte_opcodeByte]
  rw [issue, List.foldl_cons, acceptByte, hw]
  by_cases hps : ps = []
  · subst hps
    have hl0 : opcodeParams op = 0 := by simpa using hl.symm
    simp [takeParameters, hl0]
  · have hpos : 0 < opcodeParams op := by rw [← hl]; exact List.length_pos_of_ne_nil hps
    have hs' := settle_port hs (collectingPort op [])
    simp only [takeParameters, List.length_nil, if_pos hpos]
    change List.foldl acceptByte (settle { s with port := collectingPort op [] }) ps = _
    rw [hs', foldl_acceptByte_collecting op ps [] _ (hs.port (collectingPort op [])) hr rfl hps (by simpa using hl)]
    simp

/-! ### One access at a time (R138, R140, R141) -/

theorem writeData_execution {s : State} (hr : inReset s = false)
    (hp : s.port.phase = .execution) (b : Byte) :
    writeData b s = misusePort .writeNotReady s := by
  unfold writeData; rw [hr, hp]; rfl

theorem writeData_result {s : State} (hr : inReset s = false) (hp : s.port.phase = .result)
    (b : Byte) : writeData b s = misusePort .writeInResult s := by
  unfold writeData; rw [hr, hp]; rfl

theorem writeData_invalid {s : State} (hr : inReset s = false)
    (hp : s.port.phase = .command) (hc : s.port.command = none) {b : Byte}
    (hb : opcodeOfByte b = none) : writeData b s = giveCode .invalid s := by
  unfold writeData; rw [hr, hp, hc, hb]; rfl

theorem writeData_code {s : State} (hr : inReset s = false) (hp : s.port.phase = .command)
    (hc : s.port.command = none) {b : Byte} {op : Opcode} (hb : opcodeOfByte b = some op) :
    writeData b s = takeParameters op [] s := by
  unfold writeData; rw [hr, hp, hc, hb]; rfl

theorem writeData_parameter {s : State} (hr : inReset s = false)
    (hp : s.port.phase = .command) {c : CommandInProgress} (hc : s.port.command = some c) (b : Byte) :
    writeData b s = takeParameters c.op (s.port.fifo ++ [b]) s := by
  unfold writeData; rw [hr, hp, hc]; rfl

theorem readData_command {s : State} (hr : inReset s = false)
    (hp : s.port.phase = .command) : readData s = misuseRead .readInCommand s := by
  unfold readData; rw [hr, hp]; rfl

theorem readData_execution {s : State} (hr : inReset s = false)
    (hp : s.port.phase = .execution) : readData s = misuseRead .readNotReady s := by
  unfold readData; rw [hr, hp]; rfl

theorem readData_drained {s : State} (hr : inReset s = false) (hp : s.port.phase = .result)
    (hf : s.port.fifo = []) : readData s = misuseRead .readNotReady s := by
  unfold readData; rw [hr, hp, hf]; rfl

/-- A read in RESULT with a byte in the FIFO (R140). -/
theorem readData_result {s : State} (hr : inReset s = false) (hp : s.port.phase = .result)
    {b : Byte} {rest : List Byte} (hf : s.port.fifo = b :: rest) :
    readData s =
      if rest ≠ [] then { s with dataOut := some b, port := { s.port with fifo := rest } }
      else if s.port.snapshot = [] then { s with dataOut := some b, port := .idle }
      else { s with
        dataOut := some b, port := { s.port with fifo := [] }, portClaim := some .refill } := by
  unfold readData; rw [hr, hp, hf]; rfl

/-- The soft reset is the reset state with the queue, the lock flag, and with lock 1 the record and
the attention copies (R148). -/
theorem settle_softReset (s : State) : settle (softReset s) = softReset s := rfl

/-! ### Results (R139, R140) -/

/-- A command taken from an executing port completes with its result. -/
theorem giveResult_executing (bytes : List Byte) (op : Opcode) (s : State) (h : bytes ≠ []) :
    giveResult bytes { s with port := executing op } = { s with port := resultPort op bytes } := by
  simp [giveResult, portWithResult, h, executing, resultPort, Config.fifoDepth]

theorem giveCode_executing (c : Code) (op : Opcode) (s : State) :
    giveCode c { s with port := executing op } = { s with port := codePort op c } :=
  giveResult_executing [codeByte c] op s (by simp)

/-- A command taken from an executing port waits. -/
theorem waitFor_executing (w : Wait) (op : Opcode) (s : State) :
    waitFor w { s with port := executing op } = { s with port := waitingPort op w } := rfl


theorem portWithResult_executing (op : Opcode) (bytes : List Byte) (h : bytes ≠ []) :
    portWithResult bytes (executing op) = resultPort op bytes := by
  simp [portWithResult, h, executing, resultPort, Config.fifoDepth]

theorem portWithResult_code (op : Opcode) (c : Code) :
    portWithResult [codeByte c] (executing op) = codePort op c := by
  simp [portWithResult_executing, codePort]

theorem portWithResult_waiting (op : Opcode) (w : Wait) (bytes : List Byte) (h : bytes ≠ []) :
    portWithResult bytes (waitingPort op w) = resultPort op bytes := by
  simp [portWithResult, h, waitingPort, resultPort, Config.fifoDepth]

end Sys2Proof.Machine
end

