-- ==== Sys2Proof/WellFormed.lean ====
section
/-!
DEFINITION. WellFormed.lean: which commands are well formed. The operands' types already bound every
other operand; a frame read to its window has its kind's length, a mismatch falls in a frame, and an apply list of two items loses no
more than two between a turnaround and the end of its VETO slot.
-/
namespace Sys2Proof

/-- A station reads as many payload bytes as belong to the kind in H1 (R46, R54), whatever H2 says. -/
def RawFrame.lengthFits (f : RawFrame) : Bool :=
  f.payload.length == Machine.payloadLength (Machine.kindOfH1 f.h1)

/-- At most as many apply grants end within one window as the apply list holds items (R8, R79). -/
def grantsFit (appliedSince : Nat) : Bool := decide (appliedSince ≤ Config.applyCapacity)

/-- A mismatch in a frame falls before the turnaround of the longest frame (Table 3-4); one in the VETO
slot carries a number of grants that one window can see. -/
def MismatchBit.fits : MismatchBit → Bool
  | .frame bit => decide (bit < Config.longestFrameTb)
  | .vetoSlot appliedSince => grantsFit appliedSince

/-- Well-formed commands: a window outcome carries a frame of its kind's length, and a number of grants
that one window can see; a transmit mismatch a bit that a frame has. -/
def Instr.wellFormed : Instr → Bool
  | .windowOutcome frame _ appliedSince => frame.lengthFits && grantsFit appliedSince
  | .identify => true
  | .configure _ => true
  | .showConfig => true
  | .lock _ => true
  | .start => true
  | .detach => true
  | .reset => true
  | .stage _ => true
  | .unstageAll => true
  | .commit _ => true
  | .withdraw => true
  | .results => true
  | .read _ _ => true
  | .watch _ _ _ => true
  | .takeChanges => true
  | .peekChanges => true
  | .tableCommandGrant => true
  | .seed => true
  | .refill => true
  | .status => true
  | .peekStatus => true
  | .ackAll => true
  | .dataWrite _ => true
  | .resultRead => true
  | .resultRefill => true
  | .portFlush _ => true
  | .hardwareReset _ => true
  | .resetRelease => true
  | .powerHoldEnd => true
  | .groupApply => true
  | .fdatApply => true
  | .seedApply => true
  | .stepLossClear => true
  | .teardownGrant => true
  | .fdatPayloadRead => true
  | .contentionStart => true
  | .contentionLost _ => true
  | .frameTaken => true
  | .truncation => true
  | .transmitMismatch bit => bit.fits
  | .holdGap => true
  | .holdIntrusion => true
  | .holdLimitExpired => true
  | .restReached => true
  | .lineIdle => true
  | .brokenTake => true
  | .backoffExpiry _ => true
  | .fillTimerExpiry _ => true
  | .keyWon => true
  | .startMarkNotTaken => true
  | .misusedRead => true

end Sys2Proof
end

