-- ==== Sys2Proof/Tests/Slice0.lean ====
section
/-!
SUPPORT. Tests/Slice0.lean: the model's own tests: the well-formedness smoke, the manual's worked
examples, one step of every command, and for every obligation with hypotheses a state and operands that
meet them (test_witness_…, at the boundary values of each clause).
-/
namespace Sys2Proof.Tests

open Sys2Proof Sys2Proof.Machine

set_option Elab.async false

/-! ### Helpers -/

/-- The state a command leads to, if it leads to one. -/
def after (c : Instr) (s : State) : Option State :=
  match exec c s with
  | .next t => some t
  | .fault _ => none
  | .refused _ => none

/-- The bytes of a result, FIFO first. -/
def resultOf (c : Instr) (s : State) : Option (List Byte) :=
  (after c s).map fun t => t.port.fifo ++ t.port.snapshot

/-- The fault a command stops with, if it stops. -/
def stopOf (c : Instr) (s : State) : Option Fault :=
  match exec c s with
  | .next _ => none
  | .fault f => some f
  | .refused _ => none

/-- A CATCHING-UP station 6 in the rest interval, every cell UNKNOWN. -/
def fresh : State :=
  { State.reset with
    station := .catchingUp, link := .listen, framing := .rest
    config := { Config.defaultRecord with station := 6 } }

/-- An IN-STEP station 6, every cell KNOWN and zero, all watched. -/
def settled : State :=
  { fresh with
    station := .inStep, table := setWatch (seedAll Table.initial) 0 256 true, unknownChunks := [] }

/-- An entry that always passes and sets a cell to a value through its mask 0xFFFF. -/
def setEntry (cell : Byte) (value : Value) : Entry :=
  { entryOfBytes [] with cell := cell, passAction := .set, operand := value, writeMask := 0xFFFF }

/-- An entry that never passes. -/
def neverEntry (cell : Byte) : Entry := { setEntry cell 1 with matchFn := .never }

/-- A committed group of one entry. -/
def oneEntry (st : GroupState) : CommittedGroup :=
  { entries := [setEntry 80 5], strict := false, state := st }

/-- A group item of station 9. -/
def itemOf (strict : Bool) (entries : List Entry) : GroupItem :=
  { sender := 9, strict := strict, entries := entries, own := false }

/-- A WANTED request. -/
def want (c : Chunk) : Request := { chunk := c, state := .wanted, attempts := 0, fillTimer := none }

/-- An ASKED request with its timer running. -/
def asked (c : Chunk) (n : Nat) : Request :=
  { chunk := c, state := .asked, attempts := n, fillTimer := some 20 }

/-- Sixteen records of one value, owner NONE, seq 1. -/
def chunkOf (v : Value) : ChunkData :=
  { records := List.replicate 16 { value := v, owner := none, seq := 1 }, size := List.length_replicate }

/-- A frame from station 9 that stands alone. -/
def lone (body : FrameBody) : Frame :=
  { sender := 9, inStep := true, last := true, strict := false, index := 0, body := body }

/-- An own frame of station 6. -/
def ownFrame (last : Bool) (index : BitVec 3) (body : TxBody) : TxFrame :=
  { station := 6, inStep := true, last := last, strict := false, index := index, body := body }

/-- A station taking another station's frame. -/
def taking (s : State) : State :=
  { s with link := .receiving, framing := .taking, rxFrame := some { own := false, verdict := none } }

/-- A station sending its own frame. -/
def sendingOwn (f : TxFrame) (s : State) : State :=
  { s with
    link := .sending, framing := .taking, rxFrame := some { own := true, verdict := none }
    txFrame := some f }

/-- A station contending with its own frame's key. -/
def contendingOwn (f : TxFrame) (s : State) : State := { sendingOwn f s with link := .contending }

/-- The two slots of a window as read. -/
def slots (accept veto : Bool) : SlotsRead := { accept := accept, veto := veto }

/-- Parameter bytes of a CONFIGURE with its complements right. -/
def configOf (station rate flags retry timeout mask : Byte) : ConfigBytes :=
  { stationNumber := station, lineRate := rate, flags := flags, retryLimit := retry
    fillTimeout := timeout, attnMask := mask, stationComplement := ~~~station
    rateComplement := ~~~rate, flagsComplement := ~~~flags }

/-! ### Well-formedness -/

theorem test_wellFormed_window_of_its_length :
    (Instr.windowOutcome (rawFrame (lone (.freq 5))) (slots true false) 2).wellFormed = true := by
  decide +kernel

theorem test_illFormed_window_of_wrong_length :
    (Instr.windowOutcome { rawFrame (lone (.freq 5)) with payload := [] } (slots true false) 0).wellFormed
      = false := by
  decide +kernel

theorem test_illFormed_window_with_too_many_grants :
    (Instr.windowOutcome (rawFrame (lone (.freq 5))) (slots true false) 3).wellFormed = false
    ∧ (Instr.transmitMismatch (.vetoSlot 3)).wellFormed = false
    ∧ (Instr.transmitMismatch (.vetoSlot 2)).wellFormed = true := by decide +kernel

/-- The longest frame, an FDAT's, has 698 bits. -/
theorem test_illFormed_mismatch_past_the_frame :
    (Instr.transmitMismatch (.frame 698)).wellFormed = false
    ∧ (Instr.transmitMismatch (.frame 697)).wellFormed = true
    ∧ (frameLevels (rawFrame (lone (.fdat 5 (chunkOf 7))))).length = 698 := by decide +kernel

theorem test_wellFormed_commands_without_relation :
    Instr.identify.wellFormed = true ∧ (Instr.read 255 200).wellFormed = true := by decide

/-! ### The manual's worked examples -/

/-- R50: the nine bytes 0x31 to 0x39. -/
theorem test_check_of_nine_bytes :
    crc [0x31, 0x32, 0x33, 0x34, 0x35, 0x36, 0x37, 0x38, 0x39] = 0x29B1 := by decide +kernel

/-- R47: the byte 0x01 is D R D D D D D D D R. -/
theorem test_levels_of_byte_one :
    byteLevels 0x01 = [.dominant, .recessive, .dominant, .dominant, .dominant, .dominant, .dominant,
      .dominant, .dominant, .recessive] := by decide

/-- Table 10-4, the four frames' keys and header bytes. -/
theorem test_header_examples :
    keyByte (frameKey .freq 9) = 0x09 ∧ headerByte .freq false true false 0 = 0x50
    ∧ keyByte (frameKey .upd 6) = 0x26 ∧ headerByte .upd true false true 0 = 0xE8
    ∧ headerByte .upd true true true 1 = 0xF9
    ∧ keyByte (frameKey .fdat 7) = 0x47 ∧ headerByte .fdat true true false 0 = 0xB0
    ∧ payloadLength .freq = 0x01 ∧ payloadLength .upd = 0x0E ∧ payloadLength .fdat = 0x41 := by
  decide

/-- The entry example of section 10.2: the budget draw on cell 80. -/
theorem test_entry_example :
    entryBytes
      { entryOfBytes [] with
        cell := 80, magnitudeFn := .ge, reference := 120, operand := 120, passAction := .subSat
        writeMask := 0xFFFF, magnitudeMask := 0xFFFF }
      = [0x50, 0x00, 0x0C, 0x05, 0x00, 0x78, 0x00, 0x78, 0xFF, 0xFF, 0x00, 0x00, 0xFF, 0xFF] := by
  decide

/-- Table 10-13: the status byte in reset, after release, and of an idle IN-STEP station with ATTN. -/
theorem test_status_byte_examples :
    statusByte { State.reset with resetAsserted := true } = 0x00
    ∧ statusByte { State.reset with powerHold := true } = 0x00 ∧ statusByte State.reset = 0x01
    ∧ statusByte { State.reset with station := .inStep, attn := true } = 0x51 := by decide

/-- Section 10.4: cells 33 and 64 alone give byte 4 = 0x02 and byte 8 = 0x01. -/
theorem test_bitmap_example :
    (resultOf .tableCommandGrant
      { State.reset with
        running := some (.port (.command .peek))
        port := { Port.idle with phase := .execution }
        table := mapCells (fun i c => { c with changed := i == 33 || i == 64 }) Table.initial })
      = some ((List.range 32).map fun k => if k = 4 then 0x02 else if k = 8 then 0x01 else 0x00) := by
  decide +kernel

/-- Section 10.3: a NOT-REACHED record. -/
theorem test_notReached_record :
    (resultOf .results { State.reset with
        results := { status := .pending, attempts := 0, records := [ResultRecord.notReached] } })
      = some [0x80, 0, 1, 0x04, 0x00, 0x00, 0x00, 0x00, 0xFF, 0xFF, 0x00] := by decide +kernel

/-- Table 4-6's rule: 64·n + 4·station tb. -/
theorem test_backoff_durations :
    backoffTb { Config.defaultRecord with station := 6 } 1 = 88
    ∧ backoffTb { Config.defaultRecord with station := 31 } 16 = 1148 := by decide

/-! ### One step of every command: the Local Port's commands -/

theorem test_identify : resultOf .identify State.reset = some [0x6C, 0x34, 0x01] := by decide +kernel

theorem test_configure :
    (after (.configure (configOf 6 1 0x0C 3 0x14 0)) State.reset).map State.config
      = some { Config.defaultRecord with station := 6 }
    ∧ resultOf (.configure (configOf 32 1 0x0C 3 0x14 0)) State.reset = some [0x02] := by
  decide +kernel

theorem test_showConfig :
    resultOf .showConfig State.reset
      = some [0x00, 0x01, 0x0C, 0x03, 0x14, 0x00, 0xFF, 0xFE, 0xF3, 0x00] := by decide +kernel

theorem test_lock :
    (after (.lock 1) State.reset).map State.lock = some true
    ∧ resultOf (.lock 2) State.reset = some [0x02] := by decide +kernel

theorem test_start :
    (after .start State.reset).map (fun t => (t.station, t.link, t.requests.length, t.details.notInStep))
      = some (.catchingUp, .listen, 16, 16) := by decide +kernel

theorem test_detach :
    (after .detach fresh).map (fun t => (t.station, t.link, t.running))
      = some (.offline, .off, some .teardown) := by decide +kernel

theorem test_reset : after .reset settled = some State.reset := by decide +kernel

theorem test_stage :
    (after (.stage (setEntry 80 5)) State.reset).map State.staging = some [setEntry 80 5]
    ∧ resultOf (.stage { setEntry 80 5 with chain := true }) State.reset = some [0x03] := by
  decide +kernel

theorem test_unstageAll :
    (after .unstageAll { State.reset with staging := [setEntry 80 5] }).map State.staging = some [] := by
  decide +kernel

theorem test_commit :
    (after (.commit 0) { settled with staging := [setEntry 80 5] }).map State.committed
      = some (some (oneEntry .queued))
    ∧ (after (.commit 0) { fresh with staging := [setEntry 80 5] }).map
        (fun t => (t.committed, t.needed)) = some (some (oneEntry .waitFill), [5]) := by
  decide +kernel

theorem test_withdraw :
    resultOf .withdraw State.reset = some [0x12]
    ∧ (after .withdraw { settled with committed := some (oneEntry .queued) }).map State.committed
      = some none := by decide +kernel

theorem test_results : resultOf .results State.reset = some [0x00, 0x00, 0x00] := by decide +kernel

theorem test_read :
    (after (.read 255 1) State.reset).map State.running
      = some (some (.port (.command (.read 255 1))))
    ∧ resultOf (.read 255 2) State.reset = some [0x02] := by decide +kernel

theorem test_watch :
    (after (.watch 0 0 1) State.reset).map State.running
      = some (some (.port (.command (.watch 0 0 true))))
    ∧ resultOf (.watch 1 0 1) State.reset = some [0x02] := by decide +kernel

theorem test_takeChanges :
    (after .takeChanges State.reset).map State.running = some (some (.port (.command .take))) := by
  decide +kernel

theorem test_peekChanges :
    (after .peekChanges State.reset).map State.running = some (some (.port (.command .peek))) := by
  decide +kernel

theorem test_tableCommandGrant :
    resultOf .tableCommandGrant
      { settled with
        running := some (.port (.command (.read 16 2))), port := waitingPort .read .grant }
      = some [16, 7, 0, 0, 0xFF, 0, 17, 7, 0, 0, 0xFF, 0]
    ∧ (after .tableCommandGrant
      { State.reset with
        running := some (.port (.command (.watch 250 6 true)))
        port := waitingPort .watch .grant }).map
      (fun t => ((cellAt t.table 249).watch, (cellAt t.table 250).watch, (cellAt t.table 255).watch))
      = some (false, true, true) := by decide +kernel

theorem test_seed :
    (after .seed fresh).map (fun t => (t.seedSlot, t.port.phase)) = some (true, .execution)
    ∧ resultOf .seed State.reset = some [0x08] := by decide +kernel

theorem test_refill :
    (after .refill fresh).map (fun t => t.requests.length) = some 16
    ∧ (after .refill settled).map (fun t => t.requests.length) = some 0 := by decide +kernel

theorem test_status :
    resultOf .status State.reset = some [0xFF, 0]
    ∧ resultOf .status (withCause .watch 33 (withCause .done 4 State.reset)) = some [5, 4] := by
  decide +kernel

theorem test_peekStatus :
    resultOf .peekStatus (withCause .watch 33 settled) = some [0x40, 0, 1, 2, 0, 0] := by decide +kernel

theorem test_ackAll :
    (after .ackAll (withCause .watch 33 settled)).map (fun t => (t.latches, t.attn, t.details.watch))
      = some (PerCause.clear, false, 33) := by decide +kernel

theorem test_dataWrite :
    resultOf (.dataWrite 0x99) State.reset = some [0x01]
    ∧ (after (.dataWrite 0x10) State.reset).map (fun t => t.port.command.map CommandInProgress.needed)
      = some (some 14) := by decide +kernel

theorem test_resultRead :
    (after .resultRead { State.reset with port := resultPort .identify [0x6C, 0x34, 0x01] }).map
      (fun t => (t.dataOut, t.port.fifo)) = some (some 0x6C, [0x34, 0x01])
    ∧ (after .resultRead { State.reset with port := codePort .lock .ok }).map
      (fun t => (t.dataOut, t.port)) = some (some 0, Port.idle) := by decide +kernel

theorem test_misusedRead :
    (after .misusedRead State.reset).map (fun t => (t.dataOut, t.details.portError, t.attn))
      = some (some 0, 1, true) := by decide +kernel

theorem test_resultRefill :
    (after .resultRefill
      { State.reset with
        running := some (.port .refill)
        port := { resultPort .takeChanges (List.replicate 32 1) with fifo := [] } }).map
      (fun t => (t.port.fifo.length, t.port.snapshot, t.running)) = some (16, [], none) := by
  decide +kernel

theorem test_portFlush :
    (after (.portFlush 7) { State.reset with port := codePort .lock .ok }) = some State.reset := by
  decide +kernel

theorem test_hardwareReset :
    after (.hardwareReset (.pin 999)) settled = some settled
    ∧ after (.hardwareReset (.pin 1000)) settled
      = some { State.reset with resetAsserted := true } := by decide +kernel

theorem test_resetRelease :
    after .resetRelease { settled with resetAsserted := true } = some State.reset
    ∧ after .resetRelease { State.reset with powerHold := true }
      = some { State.reset with powerHold := true } := by decide +kernel

/-- R161: RESET# low at the end of the part's own hold extends the reset until its own release. -/
theorem test_powerHoldEnd :
    after .powerHoldEnd { State.reset with powerHold := true } = some State.reset
    ∧ after .powerHoldEnd { State.reset with powerHold := true, resetAsserted := true }
      = some { State.reset with resetAsserted := true }
    ∧ after (.hardwareReset (.pin 1000)) { State.reset with powerHold := true }
      = some { State.reset with powerHold := true, resetAsserted := true } := by decide +kernel

/-! ### One step of every command: grants -/

/-- A 16-bit sum that saturates, an owner taken, the seq counted and the changed mark set. -/
theorem test_groupApply :
    (after .groupApply
      { settled with
        running := some .apply
        items :=
          [.group (itemOf false [{ setEntry 80 0xFFFF with passAction := .addSat, ownerAction := .take },
            { setEntry 81 0 with passAction := .addSat, source := .cell, operand := 80 }])] }).map
      (fun t => ((cellAt t.table 80).record, (cellAt t.table 81).record.value, t.items,
        t.details.watch, (cellAt t.table 80).changed))
      = some ({ value := 0xFFFF, owner := some 9, seq := 1 }, 0xFFFF, [], 81, true) := by
  decide +kernel

theorem test_groupApply_unknown_target :
    (after .groupApply
      { settled with
        running := some .apply, table := makeUnknown settled.table 255
        items := [.group (itemOf true [setEntry 80 1, setEntry 255 1])] }).map
      (fun t => ((cellAt t.table 80).known, t.unknownChunks, t.station, t.requests.map Request.chunk))
      = some (false, [5, 15], .catchingUp, [5]) := by decide +kernel

theorem test_fdatApply :
    (after .fdatApply
      { settled with running := some .apply, items := [.fdat 3 (chunkOf 7)] }).map
      (fun t => ((cellAt t.table 47).record.value, (cellAt t.table 48).record.value,
        t.lastDivergence, t.details.diverge)) = some (0, 7, 16, 3) := by decide +kernel

theorem test_seedApply :
    (after .seedApply { fresh with running := some .apply, items := [.seed] }).map
      (fun t => (t.station, t.unknownChunks, t.latches.inStep, t.lastDivergence))
      = some (.inStep, [], true, 0) := by decide +kernel

theorem test_stepLossClear :
    (after .stepLossClear
      { settled with running := some .stepLossClear, pendingClear := some 0 }).map
      (fun t => (t.station, t.unknownChunks.length, t.pendingClear, (cellAt t.table 0).watch))
      = some (.catchingUp, 16, none, true) := by decide +kernel

theorem test_teardownGrant :
    (after .teardownGrant
      { settled with
        station := .offline, link := .off, framing := .off, running := some .teardown
        teardownPending := true, port := waitingPort .detach .detachTeardown }).map
      (fun t => (t.station, t.teardownPending, t.port.fifo, (cellAt t.table 9).known))
      = some (.offline, false, [0], false) := by decide +kernel

theorem test_fdatPayloadRead :
    (after .fdatPayloadRead
      { settled with running := some (.fdatRead 5), table := writeCell settled.table 80 9 none }).map
      (fun t => t.fdatCopy.bind fun d => d.records.head?)
      = some (some { value := 9, owner := none, seq := 1 }) := by decide +kernel

/-! ### One step of every command: the line -/

theorem test_contentionStart :
    (after .contentionStart { settled with committed := some (oneEntry .queued) }).map
      (fun t => (t.link, t.txd, t.txFrame.map txKey, t.committed))
      = some (.contending, [.dominant], some 0x26, some (oneEntry .contending))
    ∧ (after .contentionStart { fresh with requests := [want 5], seedSlot := true }).map
      (fun t => t.txFrame.map TxFrame.body) = some (some .seed)
    ∧ (after .contentionStart { settled with answers := [5] }).map
      (fun t => (t.fdatClaim, t.running)) = some (none, some (.fdatRead 5))
    ∧ (after .contentionStart { settled with answers := [5], pendingClear := some 0 }).map
      (fun t => (t.link, t.txd)) = some (.listen, [.recessive]) := by decide +kernel

/-- The key 0x26 is D R D D R R D, lost here at its second bit. -/
theorem test_contentionLost :
    (after (.contentionLost 1)
      (contendingOwn (ownFrame true 0 (.upd (setEntry 80 5)))
        { settled with committed := some (oneEntry .contending) })).map
      (fun t => (t.link, t.committed, t.groupAttempts, t.txd))
      = some (.receiving, some (oneEntry .queued), 0, [.dominant, .recessive, .recessive])
    ∧ stopOf (.contentionLost 2)
      (contendingOwn (ownFrame true 0 (.upd (setEntry 80 5)))
        { settled with committed := some (oneEntry .contending) })
      = some .keyCannotLose := by decide +kernel

theorem test_keyWon :
    (after .keyWon
      (contendingOwn (ownFrame true 0 (.upd (setEntry 80 5)))
        { settled with committed := some (oneEntry .contending) })).map
      (fun t => (t.link, t.committed, t.txd))
      = some (.sending, some (oneEntry .sending), lineKey 0x26) := by decide +kernel

theorem test_frameTaken :
    (after .frameTaken settled).map (fun t => (t.link, t.framing)) = some (.receiving, .taking)
    ∧ stopOf .frameTaken { settled with framing := .gap true } = some .framingState := by
  decide +kernel

theorem test_truncation :
    (after .truncation (taking { settled with
        groupBuffer := some { key := 0x29, strict := false, entries := [] } })).map
      (fun t => (t.link, t.framing, t.groupBuffer, t.takeAbandoned))
      = some (.listen, .search 0, none, true) := by decide +kernel

theorem test_transmitMismatch :
    (after (.transmitMismatch (.frame 9)) (sendingOwn (ownFrame true 0 (.freq 5))
        { fresh with requests := [want 5] })).map
      (fun t => (t.mismatch, t.requests.map Request.attempts, t.requestTimer))
      = some (1, [1], some { chunk := 5, tb := 88 })
    ∧ (after (.transmitMismatch (.frame 9)) (sendingOwn (ownFrame true 0 (.freq 5))
        { fresh with requests := [want 5] })).map State.txd = some [.dominant, .dominant, .recessive]
    ∧ (after (.transmitMismatch (.frame 8)) (sendingOwn (ownFrame true 0 (.freq 5))
        { fresh with requests := [want 5], mismatch := 3 })).map
      (fun t => (t.station, t.mismatch, t.latches.fault, t.details.fault, t.running))
      = some (.faulted, 4, true, 4, some .teardown) := by decide +kernel

theorem test_windowOutcome_receiver :
    (after (.windowOutcome (rawFrame (lone (.freq 5))) (slots true false) 0) (taking settled)).map
      (fun t => (t.answers, t.windowDecision, t.framing, t.txd))
      = some ([5], some .accept, .gap false, [.recessive, .dominant, .recessive])
    ∧ (after (.windowOutcome (rawFrame (lone .seed)) (slots true true) 0)
        (taking { settled with items := [.seed, .seed], running := some .apply })).map
      (fun t => (t.items.length, t.windowDecision)) = some (2, some .veto)
    ∧ stopOf (.windowOutcome (rawFrame (lone .seed)) (slots false false) 0) (taking settled)
      = some .slotNotRead := by decide +kernel

/-- R79: a list full in the turnaround and no longer full at the end of the VETO slot: still rejected. -/
theorem test_windowOutcome_busy_in_turnaround :
    (after .seedApply (taking { settled with items := [.seed, .seed], running := some .apply })).map
      (fun t => (t.items.length, t.appliedSinceMark)) = some (1, 1)
    ∧ (after (.windowOutcome (rawFrame (lone .seed)) (slots true true) 1)
        (taking { settled with items := [.seed], appliedSinceMark := 1, running := some .apply })).map
      (fun t => (t.items.length, t.windowDecision)) = some (1, some .veto)
    ∧ (after (.windowOutcome (rawFrame (lone .seed)) (slots true false) 0)
        (taking { settled with items := [.seed], appliedSinceMark := 1, running := some .apply })).map
      (fun t => (t.items.length, t.windowDecision)) = some (2, some .accept) := by decide +kernel

theorem test_windowOutcome_sender :
    (after (.windowOutcome (rawFrame (lone .seed)) (slots false false) 0)
        (sendingOwn (ownFrame true 0 (.upd (setEntry 80 5)))
          { settled with committed := some (oneEntry .sending) })).map
      (fun t => (t.committed, t.groupTimer, t.results.attempts, t.yield))
      = some (some (oneEntry .backoff), some 88, 1, true)
    ∧ (after (.windowOutcome (rawFrame (lone .seed)) (slots true false) 0)
        (sendingOwn (ownFrame true 0 (.upd (setEntry 80 5)))
          { settled with committed := some (oneEntry .sending) })).map
      (fun t => (t.committed, t.applyPending, t.items.length, t.running, t.txd.length))
      = some (none, true, 1, some .apply, 183) := by decide +kernel

/-- A two-entry group of station 6, and the state of its holder after the first frame. -/
def twoEntries (st : GroupState) : CommittedGroup :=
  { entries := [setEntry 80 5, setEntry 81 6], strict := true, state := st }

/-- HOLDING after the first of two frames. -/
def holder : State :=
  { settled with
    link := .holding, framing := .gap false, committed := some (twoEntries .sending)
    txFrame := some { ownFrame false 0 (.upd (setEntry 80 5)) with strict := true } }

theorem test_holdGap :
    (after .holdGap holder).map (fun t => (t.link, t.txFrame))
      = some (.sending,
          some { ownFrame true 1 (.upd (setEntry 81 6)) with strict := true }) := by decide +kernel

theorem test_holdIntrusion :
    (after .holdIntrusion holder).map (fun t => (t.link, t.groupAttempts, t.groupTimer, t.committed))
      = some (.receiving, 1, some 88, some (twoEntries .backoff)) := by decide +kernel

theorem test_holdLimitExpired :
    (after .holdLimitExpired
      { settled with
        framing := .gap false
        groupBuffer := some { key := 0x29, strict := false, entries := [setEntry 1 1] } }).map
      (fun t => (t.framing, t.groupBuffer)) = some (.gap true, none) := by decide +kernel

theorem test_restReached :
    (after .restReached { settled with framing := .gap true }).map State.framing = some .rest := by
  decide +kernel

theorem test_lineIdle :
    (after .lineIdle { settled with yield := true }).map State.yield = some false := by decide +kernel

theorem test_brokenTake :
    (after .brokenTake { settled with framing := .search 11, takeAbandoned := true }).map
      (fun t => (t.running, t.framing, t.takeAbandoned))
      = some (some .stepLossClear, .search 0, false)
    ∧ stopOf .brokenTake { settled with framing := .search 11 } = some .noBrokenTake := by
  decide +kernel

theorem test_startMarkNotTaken :
    (after .startMarkNotTaken { settled with framing := .gap true }).map State.framing
      = some (.search 0)
    ∧ stopOf .startMarkNotTaken { settled with framing := .search 12 } = some .framingState := by
  decide +kernel

theorem test_backoffExpiry :
    (after (.backoffExpiry .group)
      { settled with committed := some (oneEntry .backoff), groupTimer := some 88 }).map
      (fun t => (t.committed, t.groupTimer)) = some (some (oneEntry .queued), none) := by
  decide +kernel

theorem test_fillTimerExpiry :
    (after (.fillTimerExpiry 5) { fresh with requests := [asked 5 2] }).map State.requests
      = some [{ chunk := 5, state := .wanted, attempts := 3, fillTimer := none }]
    ∧ (after (.fillTimerExpiry 5) { fresh with requests := [asked 5 3] }).map
      (fun t => (t.requests, t.latches.fillFail, t.details.fillFail)) = some ([], true, 5) := by
  decide +kernel

/-! ### Witnesses: states and operands that meet the hypotheses of the obligations -/

/-- A station with requests for chunks 3 and 9, the first failed twice and backing off. -/
def asking : State :=
  { fresh with
    requests := [{ want 3 with attempts := 2 }, asked 9 2]
    requestTimer := some { chunk := 3, tb := 152 } }

/-- A state in LEVEL mode with NOT-IN-STEP latched. -/
def levelState : State := { withCause .notInStep 16 fresh with attnMode := .level }

/-- The port in COMMAND with STAGE's code and n parameters taken. -/
def stagingPort (n : Nat) : Port :=
  { phase := .command, fifo := List.replicate n 0, snapshot := []
    command := some { op := .stage, needed := 14, received := n, wait := none } }

/-- FAULTED, its teardown still running. -/
def faultedDown : State :=
  { State.reset with station := .faulted, teardownPending := true, running := some .teardown }

/-- Ready, which alone IDENTIFY, PEEK STATUS, ACK ALL, RESULTS and UNSTAGE ALL ask for, in every station
state. -/
theorem test_witness_Ready :
    Ready State.reset ∧ Ready fresh ∧ Ready settled ∧ Ready { State.reset with station := .faulted }
    ∧ Ready faultedDown ∧ Ready levelState ∧ Ready asking := by
  simp only [Ready, arbiterSettled_iff_settle]; decide +kernel

theorem test_witness_HardwareResetIsFiltered :
    999 < 1000 ∧ 1000 ≤ 1000 ∧ settled.resetAsserted = false ∧ settled.powerHold = false
    ∧ { State.reset with resetAsserted := true, powerHold := true }.powerHold = true := by decide

theorem test_witness_PortTakesNoAccessInReset :
    ArbiterSettled { State.reset with resetAsserted := true }
    ∧ ArbiterSettled { State.reset with powerHold := true }
    ∧ inReset { State.reset with powerHold := true } = true ∧ inReset settled = false
    ∧ statusByte { settled with port := waitingPort .seed .seedSlot } = 0x46
    ∧ statusByte { fresh with port := { codePort .lock .ok with fifo := [] } } = 0x2A := by
  simp only [arbiterSettled_iff_settle]; decide +kernel

theorem test_witness_SoftResetKeepsLockedRecord :
    inReset settled = false ∧ settled.port.phase = .command ∧ settled.port.command = none
    ∧ settled.lock = false ∧ { settled with lock := true }.lock = true := by decide

theorem test_witness_DataWriteTakesCommandBytes :
    inReset settled = false ∧ settled.port.phase = .command ∧ ArbiterSettled settled
    ∧ settled.port.command = none ∧ opcodeOfByte 0x00 = none ∧ opcodeOfByte 0x43 = none
    ∧ opcodeOfByte 0x10 = some .stage ∧ opcodeParams .stage ≠ 0
    ∧ opcodeOfByte 0x42 = some .ackAll ∧ opcodeParams .ackAll = 0
    ∧ ArbiterSettled { settled with port := stagingPort 12 }
    ∧ (stagingPort 12).fifo.length + 1 < opcodeParams .stage
    ∧ (stagingPort 13).fifo.length + 1 = opcodeParams .stage := by
  simp only [arbiterSettled_iff_settle]; decide +kernel

theorem test_witness_MisuseLatchesPortErrorOnly :
    ArbiterSettled { settled with port := codePort .lock .ok }
    ∧ (codePort .lock .ok).phase = .result
    ∧ ArbiterSettled { settled with port := waitingPort .seed .seedSlot }
    ∧ (waitingPort .seed .seedSlot).phase = .execution
    ∧ ArbiterSettled { settled with port := { codePort .lock .ok with fifo := [] } }
    ∧ settled.port.phase = .command ∧ inReset settled = false := by
  simp only [arbiterSettled_iff_settle]; decide +kernel

theorem test_witness_ResultReadsAndRefills :
    (resultPort .identify [1, 2]).fifo = [1, 2]
    ∧ (resultPort .lock [0]).fifo = [0] ∧ (resultPort .lock [0]).snapshot = []
    ∧ ({ resultPort .takeChanges (List.replicate 17 1) with fifo := [1] }).snapshot ≠ []
    ∧ ArbiterSettled { settled with port := resultPort .identify [1, 2] }
    ∧ { settled with running := some (.port .refill) }.runningDiscarded = false := by
  simp only [arbiterSettled_iff_settle]; decide +kernel

theorem test_witness_PortFlushDropsCommandInProgress :
    inReset { settled with resetAsserted := true } = true ∧ inReset settled = false
    ∧ ArbiterSettled settled ∧ settled.port = Port.idle ∧ settled.portClaim = none
    ∧ settled.running = none
    ∧ ArbiterSettled
        { settled with
          running := some (.port (.command .take)), runningDiscarded := true } := by
  simp only [arbiterSettled_iff_settle]; decide +kernel

theorem test_witness_ConfigureWritesWholeRecord :
    settled.station ≠ .offline ∧ State.reset.station = .offline
    ∧ 31 < (configOf 32 0 0 0 1 0).stationNumber.toNat ∧ 3 < (configOf 0 4 0 0 1 0).lineRate.toNat
    ∧ 32 ≤ (configOf 0 0 32 0 1 0).flags.toNat ∧ 15 < (configOf 0 0 0 16 1 0).retryLimit.toNat
    ∧ (configOf 0 0 0 0 0 0).fillTimeout = 0
    ∧ { configOf 0 0 0 0 1 0 with flagsComplement := 0 }.flagsComplement ≠ ~~~(0 : Byte)
    ∧ configInRange (configOf 31 3 31 15 1 0xFF) = true
    ∧ configRecordOf (configOf 0 1 0x0C 3 0x14 0) = State.reset.config
    ∧ State.reset.attn = pinFor State.reset.latches State.reset.attnMask := by decide +kernel

theorem test_witness_ShowConfigReturnsRecord :
    State.reset.config.fillTimeout ≠ 0 ∧ State.reset.station = .offline := by decide

theorem test_witness_LockDecidesSoftReset :
    (2 : Byte) ≠ 0 ∧ (2 : Byte) ≠ 1 ∧ configInRange (configOf 31 3 31 15 1 0xFF) = true
    ∧ Ready { settled with lock := true } ∧ Ready settled ∧ settled.lock = false := by
  simp only [Ready, arbiterSettled_iff_settle]; decide +kernel

theorem test_witness_ReadReportsCells :
    (0 : Byte).toNat = 0 ∧ 16 < (17 : Byte).toNat ∧ 255 < (255 : Byte).toNat + (2 : Byte).toNat - 1
    ∧ (240 : Byte).toNat + (16 : Byte).toNat - 1 ≤ 255 ∧ (255 : Byte).toNat + (1 : Byte).toNat - 1 ≤ 255
    ∧ { settled with running := some (.port (.command (.read 240 16))) }.runningDiscarded = false := by
  decide

theorem test_witness_WatchSetsRange :
    255 < (1 : Byte).toNat + 256 - 1 ∧ (0 : Byte).toNat + 256 - 1 ≤ 255
    ∧ (255 : Byte).toNat + (1 : Byte).toNat - 1 ≤ 255 ∧ (2 : Byte) ≠ 0 ∧ (2 : Byte) ≠ 1
    ∧ { settled with running := some (.port (.command (.watch 0 0 true))) }.runningDiscarded = false := by
  decide

theorem test_witness_ChangesBitmap :
    { settled with
      running := some (.port (.command .take)), port := waitingPort .takeChanges .grant }.runningDiscarded
      = false
    ∧ Ready settled := by
  simp only [Ready, arbiterSettled_iff_settle]; decide +kernel

theorem test_witness_StatusTakesHighestRank :
    (∀ c, causeGet settled.latches c = false)
    ∧ causeGet (withCause .portError 1 settled).latches .portError = true
    ∧ (∀ d, causeCode d < causeCode .portError →
        causeGet (withCause .portError 1 settled).latches d = false)
    ∧ causeGet levelState.latches .notInStep = true ∧ levelState.attnMode = .level
    ∧ levelState.station = .catchingUp
    ∧ ∀ d, causeCode d < causeCode .notInStep → causeGet levelState.latches d = false := by
  refine ⟨?_, rfl, ?_, rfl, rfl, rfl, ?_⟩
  · intro c; cases c <;> rfl
  · intro d hd; cases d <;> first | rfl | exact absurd hd (by decide)
  · intro d hd; cases d <;> first | rfl | exact absurd hd (by decide)

theorem test_witness_StageAndUnstage :
    Ready { settled with staging := List.replicate 8 (setEntry 1 1) }
    ∧ 8 ≤ (List.replicate 8 (setEntry 1 1)).length
    ∧ Ready { settled with staging := List.replicate 7 (setEntry 1 1) }
    ∧ (List.replicate 7 (setEntry 1 1)).length < 8
    ∧ Illegal 0 { setEntry 1 1 with chain := true }
    ∧ Illegal 7 { setEntry 1 0x0100 with source := .cell }
    ∧ ¬ Illegal 7 { setEntry 1 1 with chain := true } := by
  unfold Illegal; simp only [Ready, arbiterSettled_iff_settle]; decide +kernel

theorem test_witness_CommitRefusals :
    (2 : Byte) ≠ 0 ∧ (2 : Byte) ≠ 1
    ∧ Ready { settled with config := { settled.config with quiet := true } }
    ∧ settled.config.quiet = false ∧ settled.staging = []
    ∧ Ready { settled with staging := [setEntry 1 1], applyPending := true }
    ∧ Ready { settled with staging := [setEntry 1 1], committed := some (oneEntry .queued) }
    ∧ Ready
        { fresh with
          staging := [setEntry 255 1], config := { fresh.config with impliedFill := false } }
    ∧ (∃ e ∈ [setEntry 255 1], ∃ i, Names e i ∧ (cellAt fresh.table i).known = false) := by
  refine ⟨by decide, by decide, ?_, rfl, rfl, ?_, ?_, ?_,
    ⟨_, List.mem_cons_self, 255, Or.inl rfl, by decide +kernel⟩⟩
  all_goals simp only [Ready, arbiterSettled_iff_settle]; decide +kernel

theorem asking_timer_fits : RequestTimerFits asking := by
  intro t h; cases h
  exact ⟨{ want 3 with attempts := 2 }, List.mem_cons_self, rfl, rfl⟩

theorem test_witness_CommitTakesStagingList :
    Ready { asking with staging := [setEntry 255 1] }
    ∧ RequestsOrdered asking.requests ∧ RequestTimerFits { asking with staging := [setEntry 255 1] }
    ∧ asking.config.impliedFill = true ∧ asking.config.quiet = false
    ∧ (∃ e ∈ [setEntry 255 1], ∃ i, Names e i ∧ (cellAt asking.table i).known = false)
    ∧ Ready { settled with staging := [setEntry 255 1] }
    ∧ ∀ e ∈ [setEntry 255 1], ∀ i, Names e i → (cellAt settled.table i).known = true := by
  refine ⟨?_, ?_, asking_timer_fits, rfl, rfl,
    ⟨_, List.mem_cons_self, 255, Or.inl rfl, by decide +kernel⟩, ?_, ?_⟩
  · simp only [Ready, arbiterSettled_iff_settle]; decide +kernel
  · unfold RequestsOrdered; decide
  · simp only [Ready, arbiterSettled_iff_settle]; decide +kernel
  · intro e he i hi
    rw [List.mem_singleton.1 he] at hi
    rcases hi with rfl | ⟨h, _⟩
    · decide +kernel
    · exact absurd h (by decide)

theorem test_witness_WithdrawByGroupState :
    Ready { settled with committed := some (oneEntry .contending) }
    ∧ Ready { settled with committed := some (oneEntry .sending) }
    ∧ Ready { fresh with committed := some (oneEntry .waitFill), needed := [5] }
    ∧ Ready { settled with committed := some (oneEntry .backoff), groupTimer := some 88 } := by
  simp only [Ready, arbiterSettled_iff_settle]; decide +kernel

theorem test_witness_StartAttaches_DetachLeavesLine :
    Ready State.reset ∧ State.reset.teardownPending = false
    ∧ Ready faultedDown ∧ faultedDown.teardownPending = true ∧ faultedDown.station = .faulted
    ∧ Ready { State.reset with station := .faulted } ∧ Ready settled ∧ settled.station = .inStep
    ∧ Ready fresh ∧ fresh.station = .catchingUp := by
  simp only [Ready, arbiterSettled_iff_settle]; decide +kernel

theorem test_witness_SeedFillsSlot :
    Ready { fresh with config := { fresh.config with quiet := true } }
    ∧ Ready { fresh with seedSlot := true } ∧ Ready fresh ∧ fresh.seedSlot = false
    ∧ fresh.config.quiet = false := by
  simp only [Ready, arbiterSettled_iff_settle]; decide +kernel

theorem test_witness_RefillAsksForUnknownChunks :
    Ready asking ∧ asking.config.quiet = false ∧ SummaryAgrees asking
    ∧ RequestsOrdered asking.requests ∧ RequestTimerFits asking ∧ SummaryAgrees settled
    ∧ (List.range 256).all (fun n => (cellAt settled.table (BitVec.ofNat 8 n)).known) = true := by
  refine ⟨?_, rfl, ?_, ?_, asking_timer_fits, ?_, ?_⟩
  · simp only [Ready, arbiterSettled_iff_settle]; decide +kernel
  · unfold SummaryAgrees; decide +kernel
  · unfold RequestsOrdered; decide
  · unfold SummaryAgrees; decide +kernel
  · decide +kernel

theorem test_witness_TimersExpire :
    ArbiterSettled asking ∧ RequestsOrdered asking.requests ∧ RequestTimerFits asking
    ∧ asked 9 2 ∈ asking.requests ∧ (asked 9 2).attempts + 1 ≤ asking.config.retryLimit.val
    ∧ RequestTimerFits { fresh with requests := [asked 9 3] }
    ∧ fresh.config.retryLimit.val < (asked 9 3).attempts + 1
    ∧ ArbiterSettled
        { fresh with requests := [asked 9 3], committed := some (oneEntry .waitFill), needed := [9] }
    ∧ ArbiterSettled
        { settled with
          seedTimer := some 88, requestTimer := some { chunk := 3, tb := 88 }, answerTimer := some 88
          groupTimer := some 88, committed := some (oneEntry .backoff) } := by
  refine ⟨?_, ?_, asking_timer_fits, ?_, by decide, ?_, by decide, ?_, ?_⟩
  · simp only [arbiterSettled_iff_settle]; decide +kernel
  · unfold RequestsOrdered; decide
  · exact List.mem_cons_of_mem _ List.mem_cons_self
  · intro t h; cases h
  · simp only [arbiterSettled_iff_settle]; decide +kernel
  · simp only [arbiterSettled_iff_settle]; decide +kernel

theorem test_witness_EntryTestsAsTabled :
    (setEntry 80 5).matchMask = 0
    ∧ matchPasses { setEntry 80 5 with matchFn := .same } 0xFFFF = true
    ∧ matchPasses { setEntry 80 5 with matchFn := .different } 0xFFFF = false := by decide

theorem test_witness_OutcomeStepsInOrder :
    { setEntry 80 5 with chain := true }.chain = true ∧ (setEntry 80 5).chain = false
    ∧ (∃ i, Names (setEntry 80 5) i ∧ (cellAt fresh.table i).known = false)
    ∧ (∀ i, Names (setEntry 80 5) i → (cellAt settled.table i).known = true)
    ∧ { setEntry 80 5 with plain := true }.plain = true := by
  refine ⟨rfl, rfl, ⟨80, Or.inl rfl, by decide +kernel⟩, ?_, rfl⟩
  rintro i (rfl | ⟨h, _⟩)
  · decide +kernel
  · exact absurd h (by decide)

theorem test_witness_EntryEffectOnReplica :
    (cellAt settled.table 80).known = true ∧ (cellAt fresh.table 80).known = false
    ∧ (81 : Byte) ≠ (setEntry 80 5).cell := by decide +kernel

theorem test_witness_NonStrictGroupRunsInOrder :
    (itemOf false [setEntry 80 5]).strict = false
    ∧ (evaluateGroup (itemOf false [neverEntry 80]) settled.table).status = .applied
    ∧ (evaluateGroup (itemOf false [setEntry 80 5]) fresh.table).status = .undetermined := by
  decide +kernel

theorem test_witness_StrictGroupIsAllOrNothing :
    (evaluateGroup (itemOf true [setEntry 80 5, setEntry 81 5]) settled.table).status = .applied
    ∧ (evaluateGroup (itemOf true [setEntry 80 5, neverEntry 81]) settled.table).status = .void
    ∧ (evaluateGroup (itemOf true [setEntry 80 5, neverEntry 81, setEntry 82 1]) settled.table).records
      = [{ outcome := .passed, oldValue := 0, newValue := 5, oldOwner := none, newOwner := none,
           newSeq := 1 },
         { outcome := .failed, oldValue := 0, newValue := 0, oldOwner := none, newOwner := none,
           newSeq := 0 },
         ResultRecord.notReached]
    ∧ (evaluateGroup (itemOf true [setEntry 80 5]) fresh.table).status = .undetermined := by
  decide +kernel

theorem test_witness_StatusReportMovesStation :
    ((cellAt settled.table 0).known = true ∧ (cellAt fresh.table 0).known = false)
    ∧ (List.range 256).all (fun n => (cellAt settled.table (BitVec.ofNat 8 n)).known) = true
    ∧ settled.station = .inStep ∧ fresh.station = .catchingUp ∧ State.reset.station = .offline
    ∧ fresh.config.autoFill = true ∧ fresh.config.quiet = false
    ∧ RequestsOrdered fresh.requests
    ∧ (reportStatus settled.table
        { fresh with committed := some (oneEntry .waitFill), config.autoFill := false }).requests
      = [want 5]
    ∧ (reportStatus fresh.table
        { settled with committed := some (oneEntry .waitFill), needed := [5] }).committed
      = some (oneEntry .queued)
    ∧ (reportStatus settled.table
        { fresh with
          station := .inStep, answers := [3], answerAttempts := 2, answerTimer := some 88 }).answers = []
    ∧ (reportStatus fresh.table
        { settled with
          station := .catchingUp, requests := [want 5]
          requestTimer := some { chunk := 5, tb := 88 } }).requestTimer = none := by
  unfold RequestsOrdered; decide +kernel

theorem test_witness_apply_grants :
    { settled with
      running := some .apply
      items := [.group { itemOf false [setEntry 80 5] with own := true }, .seed] }.running = some .apply
    ∧ (itemOf false [setEntry 80 5]).own = false
    ∧ (after .groupApply
        { settled with
          running := some .apply
          items := [.group { itemOf false [setEntry 80 5] with own := true }, .seed] }).isSome = true
    ∧ divergences settled.table 15 (chunkOf 7) = 16
    ∧ divergences settled.table 15 (chunkData settled.table 15) = 0 := by decide +kernel

theorem test_witness_TeardownGrant :
    (after .teardownGrant { faultedDown with discardedOwn := some 8 }).map
      (fun t => (t.results.status, t.results.records.length, t.latches.done))
      = some (.dropped, 8, true)
    ∧ portWaits .detachTeardown faultedDown = false ∧ portWaits .startTeardown faultedDown = false
    ∧ (after .teardownGrant { faultedDown with port := waitingPort .start .startTeardown }).map
      (fun t => (t.station, t.requests.length)) = some (.catchingUp, 16) := by decide +kernel

theorem test_read_is_its_bytes :
    after (.read 255 1) State.reset
      = (((after (.dataWrite 0x20) State.reset).bind (after (.dataWrite 255))).bind
          (after (.dataWrite 1)))
    ∧ (after (.read 255 1) State.reset).isSome = true := by decide +kernel

theorem test_witness_FdatPayloadReadGrant_StepLossClearGrant :
    { settled with running := some (.fdatRead 15) }.runningDiscarded = false
    ∧ (after .fdatPayloadRead
        { settled with running := some (.fdatRead 15), runningDiscarded := true }).map State.fdatCopy
      = some none
    ∧ (after .stepLossClear
        { settled with running := some .stepLossClear, pendingClear := some 2 }).map State.pendingClear
      = some (some 2) := by decide +kernel

theorem test_witness_ContentionStartTakesFirstEligible :
    fresh.link = .listen ∧ fresh.framing = .rest ∧ fresh.config.quiet = false
    ∧ firstEligible { fresh with seedSlot := true, requests := [want 5] } = some .seed
    ∧ firstEligible { fresh with requests := [asked 2 0, want 5] } = some .request
    ∧ firstEligible { settled with committed := some (oneEntry .queued), answers := [15] } = some .group
    ∧ firstEligible { settled with answers := [15] } = some .answer
    ∧ firstEligible settled = none
    ∧ firstEligible { settled with answers := [15], pendingClear := some 0 } = none
    ∧ firstEligible { settled with answers := [15], pendingClear := some 2 } = none
    ∧ firstEligible
        { fresh with seedSlot := true, config := { fresh.config with quiet := true } } = none := by
  decide +kernel

theorem test_witness_KeyWonOrLost :
    (contendingOwn (ownFrame true 0 .seed) fresh).txFrame = some (ownFrame true 0 .seed)
    ∧ (contendingOwn (ownFrame true 0 .seed) fresh).link = .contending
    ∧ stopOf (.contentionLost 6)
        (contendingOwn { ownFrame true 0 .seed with station := 0 } fresh) = some .keyCannotLose
    ∧ (txKey (ownFrame true 0 .seed)).getLsbD (6 - 4) = true
    ∧ (txKey (ownFrame true 0 .seed)).getLsbD (6 - 0) = false
    ∧ (txKey (ownFrame true 0 .seed)).getLsbD (6 - 6) = false := by decide

theorem test_witness_AttemptIsCountedOrExhausts :
    2 + 1 ≤ fresh.config.retryLimit.val ∧ fresh.config.retryLimit.val < 3 + 1
    ∧ (countAttempt .seed
        { fresh with
          seedSlot := true, seedAttempts := 3, port := waitingPort .seed .seedSlot }).port
      = codePort .seed .dropped
    ∧ portWaits .seedSlot fresh = false
    ∧ RequestsOrdered asking.requests ∧ RequestTimerFits asking
    ∧ { want 3 with attempts := 2 } ∈ asking.requests
    ∧ (∀ r ∈ asking.requests, r.chunk ≠ 15)
    ∧ (∀ c : Chunk, c ∉ ([] : List Chunk)) := by
  refine ⟨by decide, by decide, by decide +kernel, by decide, ?_, asking_timer_fits,
    List.mem_cons_self, by decide, by decide⟩
  unfold RequestsOrdered; decide

theorem test_witness_TransmitMismatchStopsFrame :
    (sendingOwn (ownFrame true 0 .seed) { fresh with seedSlot := true, mismatch := 2 }).mismatch + 1 < 4
    ∧ 4 ≤ (sendingOwn (ownFrame true 0 .seed) { fresh with mismatch := 3 }).mismatch + 1
    ∧ ((ownLine (ownFrame true 0 .seed) none).map (· == .dominant)).take 28
      = [true, true, true, true, true, false, false, true]
        ++ [true, true, true, true, true, false, false, true, true, false]
        ++ [true, true, true, true, true, true, true, true, true, false]
    ∧ (ownLine (ownFrame true 0 .seed) none).length = 48
    ∧ (after (.transmitMismatch (.frame 0))
        (contendingOwn (ownFrame true 0 .seed) { fresh with seedSlot := true })).map State.txd
      = some [.dominant, .recessive]
    ∧ (after (.transmitMismatch (.frame 7))
        (contendingOwn (ownFrame true 0 .seed) { fresh with seedSlot := true })).map State.txd
      = some [.dominant, .dominant, .dominant, .dominant, .recessive, .recessive, .dominant, .recessive]
    ∧ stopOf (.transmitMismatch (.frame 5))
        (contendingOwn (ownFrame true 0 .seed) { fresh with seedSlot := true }) = some .linkState
    ∧ (after (.transmitMismatch (.frame 37))
        (sendingOwn (ownFrame true 0 .seed) { fresh with seedSlot := true })).map
      (fun t => t.txd.length) = some 31
    ∧ stopOf (.transmitMismatch (.frame 48))
        (sendingOwn (ownFrame true 0 .seed) { fresh with seedSlot := true }) = some .linkState
    ∧ (after (.transmitMismatch (.frame 0))
        (sendingOwn (ownFrame true 1 (.upd (setEntry 81 6)))
          { settled with committed := some (twoEntries .sending) })).map State.txd
      = some [.dominant, .recessive]
    ∧ (after (.transmitMismatch (.vetoSlot 0))
        (sendingOwn (ownFrame true 0 .seed)
          { fresh with
            seedSlot := true, mismatch := 3, items := [.seed, .seed], running := some .apply })).map
      State.mismatch = some 1
    ∧ (after (.transmitMismatch (.vetoSlot 2))
        (sendingOwn (ownFrame true 0 .seed)
          { fresh with seedSlot := true, mismatch := 3, appliedSinceMark := 2 })).map
      State.mismatch = some 1
    ∧ stopOf (.transmitMismatch (.vetoSlot 0))
        (sendingOwn (ownFrame true 0 .seed)
          { fresh with seedSlot := true, mismatch := 3, appliedSinceMark := 2 })
      = some .linkState := by decide +kernel

theorem test_witness_HoldSendsNextFrameOrIsBroken :
    holder.link = .holding ∧ holder.framing = .gap false
    ∧ (twoEntries .sending).entries[1]? = some (setEntry 81 6) := by decide

theorem test_witness_FramingFollowsTable :
    settled.link = .listen ∧ settled.framing = .rest
    ∧ (after .startMarkNotTaken { settled with framing := .search 11 }).map State.framing
      = some (.search 0)
    ∧ (after .startMarkNotTaken
        { settled with framing := .search 11, takeAbandoned := true }).map State.pendingClear
      = some (some 0)
    ∧ (after .lineIdle { settled with framing := .search 23 }).map State.framing = some (.search 23)
    ∧ (taking settled).link = .receiving ∧ (taking settled).framing = .taking := by decide +kernel

/-- An FDAT judged SOUND; its check is not evaluated but matched with itself. -/
theorem test_witness_receiver_fdat :
    ∃ f, judgeFrame none (rawFrame (lone (.fdat 3 (chunkOf 7)))) = .sound f
      ∧ f.body = .fdat 3 (chunkOf 7) := by
  have hv : ∀ v : Value, joinBytes (highByte v) (lowByte v) = v := by
    intro v
    unfold joinBytes highByte lowByte
    exact (BitVec.extractLsb'_append_extractLsb'_eq_extractLsb' (by rfl)).trans (by simp)
  have hc : ∀ f, checkMatches (rawFrame f) = true := by intro f; simp [checkMatches, rawFrame, hv]
  have hb : payloadBody (kindOfH1 (rawFrame (lone (.fdat 3 (chunkOf 7)))).h1)
      (h1Index (rawFrame (lone (.fdat 3 (chunkOf 7)))).h1)
      (rawFrame (lone (.fdat 3 (chunkOf 7)))).payload = some (.fdat 3 (chunkOf 7)) := by
    decide +kernel
  have hh : headerFits (rawFrame (lone (.fdat 3 (chunkOf 7)))) = true := by decide +kernel
  have he : expectationMet none (rawFrame (lone (.fdat 3 (chunkOf 7)))) = true := by decide +kernel
  unfold judgeFrame
  rw [hb, hh, he, hc]
  exact ⟨_, rfl, rfl⟩

/-- The other kinds of frame judged at a receiver with no open group, and a defective one. -/
theorem test_witness_receiver_windows :
    judgeFrame none (rawFrame (lone (.freq 15))) = .sound (lone (.freq 15))
    ∧ judgeFrame none (rawFrame (lone .seed)) = .sound (lone .seed)
    ∧ judgeFrame none (rawFrame (lone (.upd (setEntry 80 5)))) = .sound (lone (.upd (setEntry 80 5)))
    ∧ judgeFrame none (rawFrame { lone (.upd (setEntry 80 5)) with last := false })
      = .sound { lone (.upd (setEntry 80 5)) with last := false }
    ∧ judgeFrame none { rawFrame (lone (.freq 15)) with payload := [0x10] } = .faulty
    ∧ (rawFrame (lone (.fdat 3 (chunkOf 7)))).payload.length = 65
    ∧ (taking settled).items.length < 2 ∧ turnaroundItems 0 (taking settled) < 2
    ∧ turnaroundItems 1 (taking { settled with items := [.seed], appliedSinceMark := 1 }) = 2
    ∧ completesItem (lone .seed) = true ∧ completesItem (lone (.freq 15)) = false := by decide +kernel

theorem test_witness_SenderReadsOwnWindow :
    txContents (ownFrame true 0 (.fdat 3)) (some (chunkOf 7))
      = some { lone (.fdat 3 (chunkOf 7)) with sender := 6 }
    ∧ txContents (ownFrame false 0 (.upd (setEntry 80 5))) none
      = some { lone (.upd (setEntry 80 5)) with sender := 6, last := false }
    ∧ (sendingOwn (ownFrame true 0 .seed) fresh).framing = .taking
    ∧ (sendingOwn (ownFrame true 0 .seed) fresh).link = .sending
    ∧ stopOf (.windowOutcome (rawFrame (lone .seed)) (slots true false) 2)
        (sendingOwn (ownFrame true 0 .seed) { fresh with appliedSinceMark := 2 })
      = some .slotNotRead
    ∧ (after (.windowOutcome (rawFrame (lone .seed)) (slots true true) 2)
        (sendingOwn (ownFrame true 0 .seed) { fresh with seedSlot := true, appliedSinceMark := 2 })).map
      (fun t => (t.windowDecision, t.seedAttempts)) = some (some .veto, 1) := by decide +kernel

theorem test_witness_AcceptedFramesAreReported :
    RequestsOrdered asking.requests ∧ RequestTimerFits asking
    ∧ { settled with answers := [15, 3] }.answers.Nodup
    ∧ { settled with answers := [15, 3] }.answers.head? = some 15
    ∧ (0 : Chunk) ∉ ([15, 3] : List Chunk) ∧ portWaits .seedSlot settled = false := by
  refine ⟨?_, asking_timer_fits, by decide, by decide, by decide, by decide⟩
  unfold RequestsOrdered; decide

theorem test_witness_FrameIsJudgedByItsDefects :
    (rawFrame (lone .seed)).payload.length = payloadLength (kindOfH1 (rawFrame (lone .seed)).h1)
    ∧ Defective none { rawFrame (lone .seed) with checkLow := 0 }
    ∧ ¬ Defective none (rawFrame (lone .seed)) := by
  refine ⟨by decide +kernel, ?_, ?_⟩
  · iterate 10 right
    decide +kernel
  · rintro (h | h | h | h | h | ⟨h, _⟩ | h | ⟨h, _⟩ | h | ⟨o, h, _⟩ | h)
    on_goal 10 => cases h
    all_goals exact absurd h (by decide +kernel)

theorem test_witness_EntryAndFrameBytesRoundTrip :
    Sendable (lone .seed) ∧ Sendable (lone (.fdat 15 (chunkOf 7)))
    ∧ Sendable { lone (.upd { setEntry 80 5 with chain := true }) with index := 7 }
    ∧ (rawFrame { lone (.upd { setEntry 80 5 with chain := true }) with index := 7 }).key
      = 1#2 ++ BitVec.ofNat 5 9 := by
  refine ⟨⟨rfl, rfl, rfl⟩, ⟨rfl, rfl, rfl, rfl⟩, ⟨by decide +kernel, fun _ => rfl⟩, by decide⟩

/-! ### Witnesses of the step invariants -/

/-- A ready part with one command waiting. -/
def waiting : State := { State.reset with pending := [.identify] }

theorem waiting_cells (i : Byte) : cellAt waiting.table i = Cell.initial := by
  have h : cellAt Table.initial i = Cell.initial := by
    unfold cellAt Table.initial; exact List.getElem_replicate _
  exact h

/-- Every rank of Table 1-4 that a free port can serve. -/
theorem test_witness_arbiter_ranks :
    (settle { settled with teardownPending := true, pendingClear := some 0 }).running = some .teardown
    ∧ (settle { settled with pendingClear := some 0, items := [.seed] }).running = some .stepLossClear
    ∧ (settle { settled with pendingClear := some 1, items := [.seed], fdatClaim := some 3 }).running
      = some .apply
    ∧ (settle { settled with fdatClaim := some 3, portClaim := some .refill }).running
      = some (.fdatRead 3)
    ∧ (settle { settled with portClaim := some .refill }).running = some (.port .refill)
    ∧ (settle { settled with portClaim := some .refill }).portClaim = none
    ∧ (settle { settled with running := some .apply, teardownPending := true }).running
      = some .apply := by decide +kernel

theorem test_witness_step_runs : ∃ t, step waiting = .next t := ⟨_, rfl⟩

theorem test_witness_StepKeepsPinArbiterAndCounts :
    AttnFollowsLatches waiting ∧ ArbiterSettled waiting ∧ CountsBounded waiting := by
  refine ⟨⟨fun h => Bool.noConfusion h, ?_⟩, ?_, by unfold CountsBounded; decide⟩
  · rintro ⟨c, h, _⟩; cases c <;> exact Bool.noConfusion h
  · simp only [arbiterSettled_iff_settle]; decide +kernel

theorem test_witness_StepKeepsReplicaStationAndLink :
    UnknownCellsZero waiting ∧ StationFollowsCells waiting ∧ LinkCoherent waiting
    ∧ ApplyListBounded waiting := by
  refine ⟨fun i _ => by rw [waiting_cells]; rfl, ⟨?_, ?_, ?_, ?_, ?_, ?_, ?_⟩, ?_,
    ⟨Nat.zero_le _, fun h => absurd h (by decide), fun n h => absurd h (by simp [waiting, State.reset])⟩⟩
  · unfold SummaryAgrees; decide +kernel
  · intro h; exact absurd h (by decide)
  · intro h; exact absurd h (by decide)
  · intro h; exact absurd h (by decide)
  · intro _ _ i; rw [waiting_cells]; rfl
  · intro h; exact absurd h (by decide)
  · unfold OffLineItems; decide
  · unfold LinkCoherent; decide

theorem test_witness_StepKeepsReplicaStationAndLink_fdatRead :
    AnswerListFits waiting ∧ FdatReadFits waiting := by
  refine ⟨⟨List.nodup_nil, fun h => absurd rfl h⟩, by decide, by decide, ?_,
    fun c h => absurd h (by simp [waiting, State.reset])⟩
  rintro (h | ⟨c, h, _⟩)
  · exact absurd h (by decide)
  · exact absurd h (by simp [waiting, State.reset])

/-- An own FDAT on the line, its read running, and its record of the invariant. -/
def reading : State :=
  { contendingOwn (ownFrame true 0 (.fdat 5)) settled with
    answers := [5], running := some (.fdatRead 5) }

theorem test_fdatRead_due : FdatReadDue reading ∧ FdatReadFits reading := by
  refine ⟨Or.inr ⟨5, rfl, rfl⟩, by decide, by decide, fun _ => ?_, fun _ _ _ => rfl⟩
  refine ⟨by decide +kernel, rfl, rfl, rfl, rfl, rfl, _, 5, rfl, rfl⟩

theorem test_heldEntries :
    HeldEntriesFit { settled with
      groupBuffer := some { key := 0x29, strict := false, entries := [setEntry 80 5] }
      items := [.group (itemOf true [setEntry 80 5, { setEntry 81 6 with chain := true }]), .seed] } := by
  refine ⟨?_, ?_⟩
  · intro o h
    cases h
    refine ⟨by decide, by decide, ?_⟩
    intro k e h
    rcases k with _ | k
    · cases h; decide
    · exact absurd h (by simp)
  · intro g h
    rcases List.mem_cons.1 h with h | h
    · cases h
      refine ⟨by decide, by decide, ?_⟩
      intro k e h
      rcases k with _ | _ | k
      · cases h; decide
      · cases h; decide
      · exact absurd h (by simp [itemOf])
    · exact absurd h (by simp)

theorem test_witness_StepKeepsRequestAndAnswerLists :
    SlotsNeedAttachment waiting ∧ RequestListFits waiting ∧ AnswerListFits waiting := by
  refine ⟨by unfold SlotsNeedAttachment; decide, ⟨List.Pairwise.nil, ?_, ?_, ?_, ?_⟩,
    ⟨List.nodup_nil, fun h => absurd rfl h⟩⟩
  · intro r h; exact absurd h List.not_mem_nil
  · intro h; exact absurd rfl h
  · intro t h; exact absurd h (by simp [waiting, State.reset])
  · intro f c h; exact absurd h (by simp [waiting, State.reset])

theorem test_witness_StepKeepsCommittedGroup :
    GroupsFit waiting ∧ HeldEntriesFit waiting ∧ ResultsFit waiting ∧ GroupFollowsLink waiting := by
  refine ⟨⟨Nat.zero_le _, ?_, ?_, fun _ => rfl⟩,
    ⟨fun o h => absurd h (by simp [waiting, State.reset]), fun g h => absurd h List.not_mem_nil⟩, ⟨Nat.zero_le _, Nat.zero_le _, by decide, ?_,
    by decide, rfl, by decide⟩, ?_, ?_, ?_, ?_⟩
  · intro k e h; exact absurd h (by simp [waiting, State.reset])
  · intro g h; exact absurd h (by simp [waiting, State.reset])
  · intro g h; exact absurd h (by simp [waiting, State.reset])
  · intro f e h; exact absurd h (by simp [waiting, State.reset])
  · intro g h; exact absurd h (by simp [waiting, State.reset])
  · simp [waiting, State.reset]
  · intro f h; exact absurd h (by decide)

end Sys2Proof.Tests
end

section
/-!
PROOF. Table commands and the grants of the table port (sections 1.6 and 1.7): what the port's access
comes to when it is taken, and what each grant's row leaves.
-/
namespace Sys2Proof.Machine

/-! ### Taking a table command (R15 to R19) -/

/-- A command that completes with a code leaves a settled arbiter as it is. -/
theorem settle_codePort {s : State} (h : Ready s) (op : Opcode) (c : Code) :
    settle { s with port := codePort op c } = { s with port := codePort op c } :=
  settle_port h.2.2 _

/-- A table command taken from an executing port waits for its grant with its claim raised. -/
theorem raiseClaim_executing (op : TableOp) (c : Opcode) (s : State) :
    raiseClaim op { s with port := executing c }
      = { s with port := waitingPort c .grant, portClaim := some (.command op) } := rfl

/-- The grant of a table command whose result is wanted, for a port that waits for it (R15). -/
theorem tableCommandGrant_waiting {s : State} {op : TableOp} {c : Opcode}
    (hr : s.running = some (.port (.command op))) (hd : s.runningDiscarded = false)
    (hp : s.port = waitingPort c .grant) (hb : tableResult op s.table ≠ []) :
    exec .tableCommandGrant s
      = .next (settle { s with
          running := none, table := tableAfter op s.table
          port := resultPort c (tableResult op s.table) }) := by
  have he : exec .tableCommandGrant s = answer (runTableCommand op s) := by
    simp [exec, execTableCommandGrant, hr]
  rw [he, answer]
  simp [runTableCommand, hd, giveResult, endGrant, hp, portWithResult_waiting _ _ _ hb]

/-! ### READ (R16) -/

theorem readResult_ne_nil (t : Table) (first : Byte) {count : Byte} (h : 1 ≤ count.toNat) :
    readResult t first count ≠ [] := by
  obtain ⟨n, hn⟩ : ∃ n, count.toNat = n + 1 := ⟨count.toNat - 1, by omega⟩
  simp [readResult, hn, List.range_succ_eq_map, readBytes]

/-- Settles O14: the refusal and the claim come from the hand-over, the report from the grant. -/
theorem readReportsCells : Obligations.ReadReportsCells := by
  intro first count s
  refine ⟨fun hs => ?_, fun hr hd hp h1 _ => ?_⟩
  · have he : exec (.read first count) s
        = .next (settle (takeRead first count { s with port := executing .read })) :=
      congrArg Host.Outcome.next (issue_ready hs .read [first, count] rfl)
    refine ⟨fun hbad => ?_, fun h1 h16 hend => ?_⟩
    · rw [he, takeRead, if_pos (by omega), giveCode_executing, settle_codePort hs]
    · rw [he, takeRead, if_neg (by omega), raiseClaim_executing]
  · exact tableCommandGrant_waiting hr hd hp (readResult_ne_nil _ _ h1)

/-! ### WATCH (R17) -/

/-- Settles O15: a count of 0 is 256 cells, and the watch flags change cell by cell. -/
theorem watchSetsRange : Obligations.WatchSetsRange := by
  intro first count setting n s hn
  obtain rfl : n = watchCount count := hn
  refine ⟨fun hs => ?_, fun on hr hd hp => ?_⟩
  · have he : exec (.watch first count setting) s
        = .next (settle (takeWatch first count setting { s with port := executing .watch })) :=
      congrArg Host.Outcome.next (issue_ready hs .watch [first, count, setting] rfl)
    refine ⟨fun hbad => ?_, fun hend hset => ?_⟩
    · rw [he, takeWatch, if_pos hbad, giveCode_executing, settle_codePort hs]
    · have hok : ¬ (255 < first.toNat + watchCount count - 1 ∨ (setting ≠ 0 ∧ setting ≠ 1)) := by
        rintro (h | ⟨h0, h1⟩)
        · exact absurd hend (Nat.not_le.2 h)
        · exact hset.elim h0 h1
      rw [he, takeWatch, if_neg hok, raiseClaim_executing]
  · refine ⟨setWatch s.table first (watchCount count) on, fun i => ?_, ?_⟩
    · rw [cellAt_setWatch]
      simp only [inRange, Bool.and_eq_true, decide_eq_true_eq]
    · exact tableCommandGrant_waiting hr hd hp (by simp [tableResult])

/-! ### TAKE CHANGES and PEEK CHANGES (R18, R19) -/

theorem length_changeBitmap (t : Table) : (changeBitmap t).length = 32 := by simp [changeBitmap]

/-- Bit j of a packed byte is the j-th flag. -/
theorem getLsbD_packByte (f : Nat → Bool) {j : Nat} (h : j < 8) : (packByte f).getLsbD j = f j := by
  rw [packByte, BitVec.getLsbD_ofBoolListLE]
  interval_cases j <;> rfl

/-- Cell i's flag is bit (i mod 8) of byte i div 8 (R18). -/
theorem getLsbD_changeBitmap (t : Table) (i : Byte) :
    ((changeBitmap t).getD (i.toNat / 8) 0).getLsbD (i.toNat % 8) = (cellAt t i).changed := by
  have hi := i.isLt
  have hk : i.toNat / 8 < 32 := by omega
  have hcell : 8 * (i.toNat / 8) + i.toNat % 8 = i.toNat := by omega
  have hbyte : (changeBitmap t).getD (i.toNat / 8) 0
      = packByte fun j => (cellAt t (BitVec.ofNat 8 (8 * (i.toNat / 8) + j))).changed := by
    simp [changeBitmap, hk]
  rw [hbyte, getLsbD_packByte _ (Nat.mod_lt _ (by decide)), hcell, BitVec.ofNat_toNat]
  rfl

theorem changeBitmap_ne_nil (t : Table) : changeBitmap t ≠ [] := by
  intro h
  have hl := length_changeBitmap t
  rw [h] at hl
  exact absurd hl (by decide)

/-- Settles O16: both commands raise their claim, and their grants copy one bitmap. -/
theorem changesBitmap : Obligations.ChangesBitmap := by
  intro s
  refine ⟨fun hs => ⟨?_, ?_⟩, changeBitmap s.table, length_changeBitmap _,
    getLsbD_changeBitmap _, fun hr hd hp => ?_, fun hr hd hp => ?_⟩
  · exact congrArg Host.Outcome.next (issue_ready hs .takeChanges [] rfl)
  · exact congrArg Host.Outcome.next (issue_ready hs .peekChanges [] rfl)
  · exact ⟨clearChanged s.table, cellAt_clearChanged _,
      tableCommandGrant_waiting hr hd hp (changeBitmap_ne_nil _)⟩
  · exact tableCommandGrant_waiting hr hd hp (changeBitmap_ne_nil _)

/-! ### STEP_LOSS_CLEAR and the FDAT payload read (R11, R14) -/

/-- Settles O41: the row is the clear of every cell and the status report. -/
theorem stepLossClearGrant : Obligations.StepLossClearGrant := by
  intro s hr
  refine ⟨clearAll s.table, cellAt_clearAll _, ?_⟩
  simp only [exec, execStepLossClear, if_pos hr]
  rfl

/-- Settles O43: the copy is the chunk's records, or nothing when they were discarded. -/
theorem fdatPayloadReadGrant : Obligations.FdatPayloadReadGrant := by
  intro s c hr
  have he : exec .fdatPayloadRead s = answer (runFdatRead c s) := by
    simp [exec, execFdatPayloadRead, hr]
  refine ⟨fun hd => ⟨chunkData s.table c, fun k hk => ?_, ?_⟩, fun hd => ?_⟩
  · have hl : k < (chunkCells s.table c).length := by rw [length_chunkCells]; exact hk
    simp [chunkData, List.getElem?_eq_getElem hl, getElem_chunkCells]
  · rw [he, runFdatRead, hd]; simp [answer, endGrant]
  · rw [he, runFdatRead, hd]; simp [answer, endGrant]

/-! ### GROUP_APPLY (R10, R34, R39, R40) -/

/-- One WATCH event per hit latches as the last hit alone does (R7, R151). -/
theorem latchHits_eq (hits : List Byte) (s : State) :
    latchHits hits s = match hits.getLast? with
      | none => s
      | some i => latchCause .watch i s := by
  induction hits generalizing s with
  | nil => rfl
  | cons i hits ih =>
    have hstep : latchHits (i :: hits) s = latchHits hits (latchCause .watch i s) := rfl
    rw [hstep, ih]
    cases hits with
    | nil => rfl
    | cons j hits =>
      rw [List.getLast?_cons_cons]
      cases h : (j :: hits).getLast? with
      | none => simp at h
      | some k => rfl

/-- A strict run ends APPLIED, VOID or UNDETERMINED (R36 to R38). -/
theorem runStrictEntries_status (sender : Station) (prev : Option EntryOutcome) (es : List Entry)
    (t : Table) :
    (runStrictEntries sender prev es t).2.1 = .applied
      ∨ (runStrictEntries sender prev es t).2.1 = .void
      ∨ (runStrictEntries sender prev es t).2.1 = .undetermined := by
  induction es generalizing prev t with
  | nil => exact Or.inl rfl
  | cons e es ih =>
    simp only [runStrictEntries]
    split
    · exact ih _ _
    · split <;> simp

/-- A group item ends APPLIED, VOID or UNDETERMINED (R35 to R38). -/
theorem evaluateGroup_status (g : GroupItem) (t : Table) :
    (evaluateGroup g t).status = .applied ∨ (evaluateGroup g t).status = .void
      ∨ (evaluateGroup g t).status = .undetermined := by
  unfold evaluateGroup
  split
  · rcases runStrictEntries_status g.sender none g.entries t with h | h | h <;>
      simp [runStrict, h]
  · unfold runNonStrict
    dsimp only
    split <;> simp

/-- Settles O38: the grant is the evaluation, the last hit, the report and an own group's end. -/
theorem groupApplyGrant : Obligations.GroupApplyGrant := by
  intro s g rest u hr hi hu
  have he : exec .groupApply s = answer (applyGroup g s) := by
    simp [exec, execGroupApply, hr, hi]
  have hu' : u = endGrant (removeHead
      (latchHits (evaluateGroup g s.table).hits { s with table := (evaluateGroup g s.table).table })) := by
    rw [hu, latchHits_eq]
    cases (evaluateGroup g s.table).hits.getLast? <;> rfl
  refine ⟨fun ho => ?_, fun ho => ⟨_, rfl, groupStatusCode (evaluateGroup g s.table).status, ?_, ?_⟩⟩
  · simp [he, answer, applyGroup, ho, hu']
  · rcases evaluateGroup_status g s.table with h | h | h <;> simp [h, groupStatusCode]
  · simp only [he, answer, applyGroup, ho, if_true, hu']
    simp [endApplied, latchCause, withCause, writeResults, endGrant, removeHead]

/-! ### TEARDOWN_GRANT (R12, R98, R99) -/

/-- A discarded own group's end, as the state it leaves (R12). -/
theorem finishDiscarded_some {s : State} {n : Nat} (h : s.discardedOwn = some n) :
    finishDiscarded s = withCause .done 0x07 { s with
      discardedOwn := none, applyPending := false
      results :=
        { status := .dropped, attempts := s.results.attempts
          records := List.replicate n ResultRecord.notReached } } := by
  unfold finishDiscarded; rw [h]; rfl

theorem finishDiscarded_none {s : State} (h : s.discardedOwn = none) : finishDiscarded s = s := by
  unfold finishDiscarded; rw [h]

/-- A START that acts leaves the station attached with the code OK (R98). -/
theorem attach_of_waiting {s : State} {op : Opcode} {w : Wait} (h : s.port = waitingPort op w) :
    attach s = { attached s with port := codePort op .ok } := by
  have hp : portWithResult [codeByte .ok] s.port = codePort op .ok := by
    rw [h, portWithResult_waiting _ _ _ (by simp)]; rfl
  simp only [attach, giveCode, giveResult, latchCause, hp]
  rfl

/-- The commands that wait for the teardown, completed at its end (R98, R99). -/
theorem completeTeardown {v : State} :
    (v.port = waitingPort .detach .detachTeardown →
      startAfterTeardown (completeWait .detachTeardown .ok v) = { v with port := codePort .detach .ok })
    ∧ (v.port = waitingPort .start .startTeardown →
      startAfterTeardown (completeWait .detachTeardown .ok v)
        = { attached v with port := codePort .start .ok })
    ∧ (portWaits .detachTeardown v = false → portWaits .startTeardown v = false →
      startAfterTeardown (completeWait .detachTeardown .ok v) = v) := by
  refine ⟨fun hp => ?_, fun hp => ?_, fun hd hs => ?_⟩
  · have hw : portWaits .detachTeardown v = true := by simp [portWaits, hp, waitingPort]
    have hr : portWithResult [codeByte .ok] v.port = codePort .detach .ok := by
      rw [hp, portWithResult_waiting _ _ _ (by simp)]; rfl
    have hc : completeWait .detachTeardown .ok v = { v with port := codePort .detach .ok } := by
      simp only [completeWait, hw, if_true, giveCode, giveResult, hr]
    rw [hc]
    rfl
  · have hw : portWaits .detachTeardown v = false := by simp [portWaits, hp, waitingPort]
    have hs : portWaits .startTeardown v = true := by simp [portWaits, hp, waitingPort]
    simp only [completeWait, hw, startAfterTeardown, hs, if_true, attach_of_waiting hp,
      Bool.false_eq_true, if_false]
  · simp [completeWait, hd, startAfterTeardown, hs]

/-- Settles O42: the clear and its report, the discarded group's end, and the command that waited. -/
theorem teardownGrant : Obligations.TeardownGrant := by
  intro s hr _
  obtain ⟨u, hu⟩ : ∃ u, u = reportStatus s.table
      (endGrant { s with table := clearAll s.table, teardownPending := false }) := ⟨_, rfl⟩
  have hd : u.discardedOwn = s.discardedOwn ∧ u.results = s.results := by simp [hu]
  obtain ⟨v, hv⟩ : ∃ v, v = finishDiscarded u := ⟨_, rfl⟩
  have hport : v.port = s.port := by simp [hv, hu]
  have he : exec .teardownGrant s
      = .next (settle (startAfterTeardown (completeWait .detachTeardown .ok v))) := by
    rw [hv, hu]; simp [exec, execTeardownGrant, hr, answer, runTeardown]
  obtain ⟨hdetach, hstart, hnone⟩ := completeTeardown (v := v)
  have hwait (w : Wait) : portWaits w v = portWaits w s := by simp [portWaits, hport]
  refine ⟨clearAll s.table, u, v, cellAt_clearAll _, hu, fun h => ?_, fun n h => ?_,
    fun hp => ?_, fun hp => ?_, fun hw1 hw2 => ?_⟩
  · rw [hv, finishDiscarded_none (hd.1.trans h)]
  · rw [hv, finishDiscarded_some (hd.1.trans h), hd.2]
  · rw [he, hdetach (hport.trans hp)]
  · rw [he, hstart (hport.trans hp)]
  · rw [he, hnone ((hwait _).trans hw1) ((hwait _).trans hw2)]

end Sys2Proof.Machine
end

section
/-!
PROOF. What one step can do. `Command` lists what a complete command of the port does when its block
takes it, apart from the port itself; `Row` lists what every other row of the opcode table does before
the arbiter is served, with the guard under which its meaning comes to that. Every step is a run of
data writes or one such row, so that an invariant is kept by every step when commands, rows and the
arbiter keep it (`step_keeps`).
-/
namespace Sys2Proof.Machine

/-! ### Commands of the port (R138, Table 10-18) -/

/-- What a command does when it is taken from the port, apart from the port. -/
inductive Command (s : State) : State → Prop
  | nothing : Command s s
  | misuse (m : Misuse) : Command s (misusePort m s)
  | configure (p : ConfigBytes) (hs : s.station = .offline) (hp : configInRange p = true) :
      Command s (copyAttention { s with config := configRecordOf p })
  | lock (v : Bool) : Command s { s with lock := v }
  | start (hs : isAttached s.station = false) (ht : s.teardownPending = false) : Command s (attach s)
  | leaveFaulted (hs : s.station = .faulted) : Command s { s with station := .offline }
  | detach (hs : isAttached s.station = true) : Command s (leaveLine .offline s)
  | reset : Command s (softReset s)
  | stage (e : Entry) (hl : s.staging.length < 8) (he : entryLegal s.staging.length e = true) :
      Command s { s with staging := s.staging ++ [e] }
  | unstage : Command s { s with staging := [] }
  | commit (strict : Byte) (hr : commitRefusal strict s = none) : Command s (acceptCommit strict s)
  | withdraw (g : CommittedGroup) (hg : s.committed = some g)
      (hs : g.state ≠ .contending ∧ g.state ≠ .sending) : Command s (dropCommitted .withdrawn s)
  | claim (op : TableOp) : Command s { s with portClaim := some (.command op) }
  | seed (hs : isAttached s.station = true) (hq : s.config.quiet = false) :
      Command s { s with seedSlot := true, seedAttempts := 0 }
  | refill (hs : isAttached s.station = true) (hq : s.config.quiet = false) :
      Command s (addWanted s.unknownChunks s)
  | status (c : Cause) : Command s (clearLatch c s)
  | ackAll : Command s (clearAllLatches s)

/-- The port FIFO within its 16 bytes (R136). -/
def FifoFits (p : Port) : Prop := p.fifo.length ≤ 16

theorem fifoFits_idle : FifoFits .idle := Nat.zero_le _

theorem fifoFits_portWithResult (bytes : List Byte) (p : Port) : FifoFits (portWithResult bytes p) := by
  unfold portWithResult FifoFits
  split
  · exact Nat.zero_le _
  · exact List.length_take_le _ _

/-- A state that a command leaves: its effect and a port, whose FIFO stays within its bound. -/
def Taken (s t : State) : Prop :=
  ∃ x p, Command s x ∧ t = { x with port := p } ∧ (FifoFits s.port → FifoFits p)

theorem Command.taken {s x : State} (h : Command s x) (hf : FifoFits s.port → FifoFits x.port) :
    Taken s x := ⟨x, x.port, h, rfl, hf⟩

theorem Command.giveResult {s x : State} (h : Command s x) (bytes : List Byte) :
    Taken s (giveResult bytes x) :=
  ⟨x, _, h, rfl, fun _ => fifoFits_portWithResult _ _⟩

theorem Command.giveCode {s x : State} (h : Command s x) (c : Code) : Taken s (giveCode c x) :=
  h.giveResult _

theorem Command.waitFor {s x : State} (h : Command s x) (w : Wait)
    (hf : FifoFits s.port → FifoFits x.port) : Taken s (waitFor w x) := ⟨x, _, h, rfl, hf⟩

/-- A command that completes whatever waits leaves the FIFO within its bound. -/
theorem fifoFits_ite {p : Port} (c : Prop) [Decidable c] (bytes : List Byte) (h : FifoFits p) :
    FifoFits (if c then portWithResult bytes p else p) := by
  split
  · exact fifoFits_portWithResult _ _
  · exact h

theorem fifoFits_emptySeedSlot (c : Code) {s : State} (h : FifoFits s.port) :
    FifoFits (emptySeedSlot c s).port := by
  simp only [emptySeedSlot_fields]
  exact fifoFits_ite _ _ h

theorem dropGroup_port (s : State) : (dropGroup s).port = s.port := by simp

theorem fifoFits_leaveLine (st : StationState) {s : State} (h : FifoFits s.port) :
    FifoFits (leaveLine st s).port := by
  unfold leaveLine
  rw [dropGroup_port]
  exact fifoFits_emptySeedSlot _ h

/-! ### The commands, one by one -/

theorem taken_configure (p : ConfigBytes) (s : State) : Taken s (takeConfigure p s) := by
  unfold takeConfigure
  split_ifs with h1 h2
  · exact Command.nothing.giveCode _
  · exact Command.nothing.giveCode _
  · exact (Command.configure p (by simpa using h1) (by simpa using h2)).giveCode _

theorem taken_lock (v : Byte) (s : State) : Taken s (takeLock v s) := by
  unfold takeLock
  split_ifs
  · exact (Command.lock _).giveCode _
  · exact (Command.lock _).giveCode _
  · exact Command.nothing.giveCode _

theorem taken_start (s : State) : Taken s (takeStart s) := by
  unfold takeStart
  split_ifs with h1 h2
  · exact Command.nothing.giveCode _
  · exact Command.nothing.waitFor _ id
  · exact (Command.start (by simpa using h1) (by simpa using h2)).taken
      fun _ => fifoFits_portWithResult _ _

theorem taken_detach (s : State) : Taken s (takeDetach s) := by
  unfold takeDetach
  cases hs : s.station with
  | offline => exact Command.nothing.giveCode _
  | faulted =>
    dsimp only
    split
    · exact (Command.leaveFaulted hs).waitFor _ id
    · exact (Command.leaveFaulted hs).giveCode _
  | catchingUp => exact (Command.detach (by rw [hs]; rfl)).waitFor _ (fifoFits_leaveLine _)
  | inStep => exact (Command.detach (by rw [hs]; rfl)).waitFor _ (fifoFits_leaveLine _)

theorem taken_stage (e : Entry) (s : State) : Taken s (takeStage e s) := by
  unfold takeStage
  split_ifs with h1 h2 h3
  · exact Command.nothing.giveCode _
  · exact Command.nothing.giveCode _
  · exact Command.nothing.giveCode _
  · exact (Command.stage e (by simpa [Config.groupCapacity] using h2) (by simpa using h3)).giveCode _

theorem taken_commit (strict : Byte) (s : State) : Taken s (takeCommit strict s) := by
  unfold takeCommit
  cases h : commitRefusal strict s with
  | some code => exact Command.nothing.giveCode _
  | none => exact (Command.commit strict h).taken fun _ => fifoFits_portWithResult _ _

theorem taken_withdraw (s : State) : Taken s (takeWithdraw s) := by
  unfold takeWithdraw
  cases hg : s.committed with
  | none => exact Command.nothing.giveCode _
  | some g =>
    dsimp only
    cases hst : g.state with
    | waitFill => exact (Command.withdraw g hg (by simp [hst])).giveCode _
    | queued => exact (Command.withdraw g hg (by simp [hst])).giveCode _
    | backoff => exact (Command.withdraw g hg (by simp [hst])).giveCode _
    | contending => exact Command.nothing.giveCode _
    | sending => exact Command.nothing.giveCode _

theorem taken_read (first count : Byte) (s : State) : Taken s (takeRead first count s) := by
  unfold takeRead
  split_ifs
  · exact Command.nothing.giveCode _
  · exact (Command.claim _).waitFor _ id

theorem taken_watch (first count setting : Byte) (s : State) :
    Taken s (takeWatch first count setting s) := by
  unfold takeWatch
  split_ifs
  · exact Command.nothing.giveCode _
  · exact (Command.claim _).waitFor _ id

theorem taken_seed (s : State) : Taken s (takeSeed s) := by
  unfold takeSeed
  split_ifs with h1 h2
  · exact Command.nothing.giveCode _
  · exact Command.nothing.giveCode _
  · exact Command.nothing.giveCode _
  · exact (Command.seed (by simpa using h1) (by simpa using h2)).waitFor _ id

theorem taken_refill (s : State) : Taken s (takeRefill s) := by
  unfold takeRefill
  split_ifs with h1 h2
  · exact Command.nothing.giveCode _
  · exact Command.nothing.giveCode _
  · exact (Command.refill (by simpa using h1) (by simpa using h2)).giveCode _

theorem taken_status (s : State) : Taken s (takeStatus s) := by
  unfold takeStatus
  cases highestLatched s with
  | none => exact Command.nothing.giveResult _
  | some c => exact (Command.status c).giveResult _

/-- A command that has all its parameters does one of the things `Command` lists. -/
theorem taken_handOver (op : Opcode) (ps : List Byte) (s : State) : Taken s (handOver op ps s) := by
  cases op with
  | identify => exact Command.nothing.giveResult _
  | configure => exact taken_configure _ s
  | showConfig => exact Command.nothing.giveResult _
  | lock => exact taken_lock _ s
  | start => exact taken_start s
  | detach => exact taken_detach s
  | reset => exact Command.reset.taken fun _ => fifoFits_idle
  | stage => exact taken_stage _ s
  | unstageAll => exact Command.unstage.giveCode _
  | commit => exact taken_commit _ s
  | withdraw => exact taken_withdraw s
  | results => exact Command.nothing.giveResult _
  | read => exact taken_read _ _ s
  | watch => exact taken_watch _ _ _ s
  | takeChanges => exact (Command.claim _).waitFor _ id
  | peekChanges => exact (Command.claim _).waitFor _ id
  | seed => exact taken_seed s
  | refill => exact taken_refill s
  | status => exact taken_status s
  | peekStatus => exact Command.nothing.giveResult _
  | ackAll => exact Command.ackAll.giveCode _

/-- The port after a command's code byte or one more parameter (R138). -/
theorem taken_takeParameters (op : Opcode) (ps : List Byte) (s : State) :
    ∃ q, (FifoFits s.port → FifoFits q) ∧ Taken { s with port := q } (takeParameters op ps s) := by
  unfold takeParameters
  split
  · next h =>
    have hle := opcodeParams_le op
    refine ⟨_, fun _ => ?_, Command.nothing.taken id⟩
    exact show ps.length ≤ 16 by omega
  · exact ⟨_, fun _ => Nat.zero_le _, taken_handOver op ps _⟩

/-- A data write, on a port that holds the command's bytes, does one of the things `Command` lists. -/
theorem taken_writeData (b : Byte) (s : State) :
    ∃ q, (FifoFits s.port → FifoFits q) ∧ Taken { s with port := q } (writeData b s) := by
  unfold writeData
  split
  · exact ⟨s.port, id, Command.nothing.taken id⟩
  · cases s.port.phase with
    | command =>
      dsimp only
      cases s.port.command with
      | some c => exact taken_takeParameters _ _ s
      | none =>
        dsimp only
        cases opcodeOfByte b with
        | none => exact ⟨s.port, id, Command.nothing.giveCode _⟩
        | some op => exact taken_takeParameters _ _ s
    | execution => exact ⟨s.port, id, (Command.misuse _).taken id⟩
    | result => exact ⟨s.port, id, (Command.misuse _).taken id⟩

/-- A property that no port changes is kept by a data write when every command keeps it. -/
theorem writeData_keeps {P : State → Prop} (hport : ∀ s p, P s → P { s with port := p })
    (hcommand : ∀ s x, P s → Command s x → P x) (b : Byte) {s : State} (h : P s) :
    P (writeData b s) := by
  obtain ⟨q, _, x, p, hx, hw, _⟩ := taken_writeData b s
  rw [hw]
  exact hport _ _ (hcommand _ _ (hport _ _ h) hx)

/-! ### The other rows -/

/-- The window slot that this station decides, and the two slots as read that agree with it (R80). -/
def SlotDecided (slots : SlotsRead) (slot decided : SlotChoice) : Prop :=
  slot = decided ∧ slotReadBack slots slot = true

/-- What a row that is not a data write does before the arbiter is served, and under what guard. -/
inductive Row (s : State) : State → Prop
  | read : Row s (readData s)
  | flush : Row s (flushPort s)
  | hardReset (asserted hold : Bool) : Row s (resetValues asserted hold s)
  | groupApply (g : GroupItem) (rest : List Item) (hr : s.running = some .apply)
      (hi : s.items = .group g :: rest) : Row s (applyGroup g s)
  | fdatApply (c : Chunk) (d : ChunkData) (rest : List Item) (hr : s.running = some .apply)
      (hi : s.items = .fdat c d :: rest) : Row s (applyFdat c d s)
  | seedApply (rest : List Item) (hr : s.running = some .apply) (hi : s.items = .seed :: rest) :
      Row s (applySeed s)
  | stepLossClear (hr : s.running = some .stepLossClear) : Row s (runClear s)
  | teardown (hr : s.running = some .teardown) : Row s (runTeardown s)
  | fdatRead (c : Chunk) (hr : s.running = some (.fdatRead c)) : Row s (runFdatRead c s)
  | tableCommand (op : TableOp) (hr : s.running = some (.port (.command op))) :
      Row s (runTableCommand op s)
  | refill (hr : s.running = some (.port .refill)) : Row s (runRefill s)
  | noCandidate (hl : s.link = .listen) (hf : s.framing = .rest) : Row s (undriven s)
  | contentionStart (slot : CandidateSlot) (f : TxFrame) (hl : s.link = .listen)
      (hf : s.framing = .rest) (he : eligible s slot = true) (hs : slotFrame s slot = some f) :
      Row s (beginContention f s)
  | contentionLost (keyBit : Fin 7) (f : TxFrame) (hl : s.link = .contending)
      (ht : s.txFrame = some f) : Row s (loseKey keyBit f s)
  | keyWon (f : TxFrame) (hl : s.link = .contending) (ht : s.txFrame = some f) : Row s (winKey f s)
  | frameTaken (hl : s.link = .listen) (hf : takesStartMark s.framing = true) : Row s (takeFrame s)
  | lateStartMark (late : Bool) (hl : s.link = .listen) (hf : s.framing = .gap late) :
      Row s (undriven { passHoldLimit s with framing := .search 0 })
  | brokenTake (n : Nat) (hf : s.framing = .search n) :
      Row s (undriven { breakTake s with framing := .search 0 })
  | truncation (hl : s.link = .receiving) (hf : s.framing = .taking) :
      Row s { abandonFrame s with groupBuffer := none }
  | mismatch (bit : MismatchBit) (f : TxFrame) (ht : s.txFrame = some f)
      (hm : mismatchFits bit f s = true) : Row s (stopFrame bit f s)
  | holdGap (f : TxFrame) (hl : s.link = .holding) (hf : s.framing = .gap false)
      (hn : nextGroupFrame s = some f) : Row s (driveStartMark .sending f s)
  | holdIntrusion (hl : s.link = .holding) (hf : s.framing = .gap false) :
      Row s (countGroup (takeFrame { s with txFrame := none }))
  | holdLimit (late : Bool) (hl : s.link = .listen) (hf : s.framing = .gap late) :
      Row s (undriven (passHoldLimit s))
  | restAfterGap (late : Bool) (hl : s.link = .listen) (hf : s.framing = .gap late) :
      Row s (undriven { passHoldLimit s with framing := .rest })
  | restAfterSearch (n : Nat) (hl : s.link = .listen) (hf : s.framing = .search n) :
      Row s (undriven { reportIdle s with framing := .rest })
  | idleAtRest (hl : s.link = .listen) (hf : s.framing = .rest) : Row s (undriven (reportIdle s))
  | idleInSearch (n : Nat) (hl : s.link = .listen) (hf : s.framing = .search n) :
      Row s (undriven { reportIdle s with framing := .search (max n Config.lineIdleTb) })
  | idleAfterGap (late : Bool) (hl : s.link = .listen) (hf : s.framing = .gap late) :
      Row s (undriven { reportIdle (passHoldLimit s) with framing := .rest })
  | received (frame : RawFrame) (slots : SlotsRead) (n : Nat) (slot : SlotChoice)
      (hf : s.framing = .taking) (hl : s.link = .receiving)
      (hs : SlotDecided slots slot (receiverSlot n s (judgeFrame s.groupBuffer frame))) :
      Row s (receiveWindow (judgeFrame s.groupBuffer frame) slot (windowReads slots) s)
  | sent (tx : TxFrame) (f : Frame) (slots : SlotsRead) (n : Nat) (slot : SlotChoice)
      (hf : s.framing = .taking) (hl : s.link = .sending) (ht : s.txFrame = some tx)
      (hc : txContents tx s.fdatCopy = some f) (hs : SlotDecided slots slot (senderSlot n s f)) :
      Row s (senderWindow tx f slot (windowReads slots) s)
  | backoff (slot : CandidateSlot) (hb : backoffRuns s slot = true) : Row s (expireBackoff slot s)
  | fillTimer (c : Chunk) (r : Request) (hr : findRequest s.requests c = some r)
      (ha : r.state = .asked) : Row s (expireFill r s)

/-- What a step comes to once its command is taken from the queue: data writes one after the other, of
which an idle step has none, or a row and then the arbiter. -/
def Stepped (s t : State) : Prop :=
  (∃ bytes : List Byte, t = bytes.foldl acceptByte s) ∨ ∃ u, Row s u ∧ t = settle u

theorem stepped_idle (s : State) : Stepped s s := Or.inl ⟨[], rfl⟩

theorem stepped_issue (op : Opcode) (ps : List Byte) (s : State) : Stepped s (issue op ps s) :=
  Or.inl ⟨opcodeByte op :: ps, rfl⟩

theorem Row.stepped {s u : State} (h : Row s u) : Stepped s (settle u) := Or.inr ⟨u, h, rfl⟩

/-- A row that answers, with the arbiter served last. -/
theorem Row.of_answer {s u t : State} (h : Row s u) (ht : answer u = .next t) : Stepped s t := by
  cases ht
  exact h.stepped

/-- A row that leaves every block at its reset values; its arbiter has nothing to grant. -/
theorem stepped_resetValues (asserted hold : Bool) (s : State) :
    Stepped s (resetValues asserted hold s) := (Row.hardReset asserted hold).stepped

/-! ### The rows of the port and of the resets -/

theorem stepped_portFlush (v : Byte) {s t : State} (h : execPortFlush v s = .next t) : Stepped s t := by
  unfold execPortFlush at h
  split at h
  · cases h; exact stepped_idle s
  · exact Row.flush.of_answer h

theorem stepped_hardwareReset {source : ResetSource} {s t : State}
    (h : execHardwareReset source s = .next t) : Stepped s t := by
  unfold execHardwareReset at h
  split at h
  · cases h
    cases source <;> exact stepped_resetValues _ _ s
  · cases h; exact stepped_idle s

theorem stepped_resetRelease {s t : State} (h : execResetRelease s = .next t) : Stepped s t := by
  unfold execResetRelease at h
  split at h
  · cases h; exact stepped_resetValues _ _ s
  · cases h; exact stepped_idle s

theorem stepped_powerHoldEnd {s t : State} (h : execPowerHoldEnd s = .next t) : Stepped s t := by
  unfold execPowerHoldEnd at h
  split at h
  · cases h; exact stepped_resetValues _ _ s
  · cases h; exact stepped_idle s

/-! ### The rows of the grants -/

theorem stepped_groupApply {s t : State} (h : execGroupApply s = .next t) : Stepped s t := by
  unfold execGroupApply at h
  split at h
  · next g rest hr hi => exact (Row.groupApply g rest hr hi).of_answer h
  · cases h

theorem stepped_fdatApply {s t : State} (h : execFdatApply s = .next t) : Stepped s t := by
  unfold execFdatApply at h
  split at h
  · next c d rest hr hi => exact (Row.fdatApply c d rest hr hi).of_answer h
  · cases h

theorem stepped_seedApply {s t : State} (h : execSeedApply s = .next t) : Stepped s t := by
  unfold execSeedApply at h
  split at h
  · next rest hr hi => exact (Row.seedApply rest hr hi).of_answer h
  · cases h

theorem stepped_stepLossClear {s t : State} (h : execStepLossClear s = .next t) : Stepped s t := by
  unfold execStepLossClear at h
  split at h
  · next hr => exact (Row.stepLossClear hr).of_answer h
  · cases h

theorem stepped_teardownGrant {s t : State} (h : execTeardownGrant s = .next t) : Stepped s t := by
  unfold execTeardownGrant at h
  split at h
  · next hr => exact (Row.teardown hr).of_answer h
  · cases h

theorem stepped_fdatPayloadRead {s t : State} (h : execFdatPayloadRead s = .next t) :
    Stepped s t := by
  unfold execFdatPayloadRead at h
  split at h
  · next c hr => exact (Row.fdatRead c hr).of_answer h
  · cases h

theorem stepped_tableCommandGrant {s t : State} (h : execTableCommandGrant s = .next t) :
    Stepped s t := by
  unfold execTableCommandGrant at h
  split at h
  · next op hr => exact (Row.tableCommand op hr).of_answer h
  · cases h

theorem stepped_resultRefill {s t : State} (h : execResultRefill s = .next t) : Stepped s t := by
  unfold execResultRefill at h
  split at h
  · next hr => exact (Row.refill hr).of_answer h
  · cases h

/-! ### The rows of the line -/

theorem stepped_contentionStart {s t : State} (h : execContentionStart s = .next t) :
    Stepped s t := by
  unfold execContentionStart at h
  split_ifs at h with hl hf
  rw [not_not] at hl hf
  split at h
  · exact (Row.noCandidate hl hf).of_answer h
  · next f hb =>
    obtain ⟨slot, hs, hsf⟩ := Option.bind_eq_some_iff.1 hb
    exact (Row.contentionStart slot f hl hf (List.find?_some hs) hsf).of_answer h

theorem stepped_contentionLost {k : Fin 7} {s t : State} (h : execContentionLost s k = .next t) :
    Stepped s t := by
  unfold execContentionLost at h
  split at h
  · next f hl ht =>
    split_ifs at h
    exact (Row.contentionLost k f hl ht).of_answer h
  · cases h

theorem stepped_keyWon {s t : State} (h : execKeyWon s = .next t) : Stepped s t := by
  unfold execKeyWon at h
  split at h
  · next f hl ht => exact (Row.keyWon f hl ht).of_answer h
  · cases h

theorem stepped_frameTaken {s t : State} (h : execFrameTaken s = .next t) : Stepped s t := by
  unfold execFrameTaken at h
  split_ifs at h with hl hf
  exact (Row.frameTaken (not_not.1 hl) (by simpa using hf)).of_answer h

theorem stepped_startMarkNotTaken {s t : State} (h : execStartMarkNotTaken s = .next t) :
    Stepped s t := by
  unfold execStartMarkNotTaken at h
  split_ifs at h with hl
  rw [not_not] at hl
  cases hf : s.framing with
  | gap late => rw [hf] at h; exact (Row.lateStartMark late hl hf).of_answer h
  | search n =>
    rw [hf] at h
    dsimp only at h
    split_ifs at h
    exact (Row.brokenTake n hf).of_answer h
  | off => rw [hf] at h; cases h
  | rest => rw [hf] at h; cases h
  | taking => rw [hf] at h; cases h

theorem stepped_brokenTake {s t : State} (h : execBrokenTake s = .next t) : Stepped s t := by
  unfold execBrokenTake at h
  split at h
  · next n hf =>
    split_ifs at h
    exact (Row.brokenTake n hf).of_answer h
  all_goals cases h

theorem stepped_truncation {s t : State} (h : execTruncation s = .next t) : Stepped s t := by
  unfold execTruncation at h
  split_ifs at h with hl hf
  exact (Row.truncation (not_not.1 hl) (not_not.1 hf)).of_answer h

theorem stepped_transmitMismatch {bit : MismatchBit} {s t : State}
    (h : execTransmitMismatch bit s = .next t) : Stepped s t := by
  unfold execTransmitMismatch at h
  split at h
  · cases h
  · next f ht =>
    split_ifs at h with hm
    exact (Row.mismatch bit f ht hm).of_answer h

theorem stepped_holdGap {s t : State} (h : execHoldGap s = .next t) : Stepped s t := by
  unfold execHoldGap at h
  split_ifs at h with hl hf
  split at h
  · cases h
  · next f hn => exact (Row.holdGap f (not_not.1 hl) (not_not.1 hf) hn).of_answer h

theorem stepped_holdIntrusion {s t : State} (h : execHoldIntrusion s = .next t) : Stepped s t := by
  unfold execHoldIntrusion at h
  split_ifs at h with hl hf
  exact (Row.holdIntrusion (not_not.1 hl) (not_not.1 hf)).of_answer h

theorem stepped_holdLimitExpired {s t : State} (h : execHoldLimitExpired s = .next t) :
    Stepped s t := by
  unfold execHoldLimitExpired at h
  split_ifs at h with hl
  split at h
  · next late hf => exact (Row.holdLimit late (not_not.1 hl) hf).of_answer h
  all_goals cases h

theorem stepped_restReached {s t : State} (h : execRestReached s = .next t) : Stepped s t := by
  unfold execRestReached at h
  split_ifs at h with hl
  split at h
  · next late hf => exact (Row.restAfterGap late (not_not.1 hl) hf).of_answer h
  · next n hf => exact (Row.restAfterSearch n (not_not.1 hl) hf).of_answer h
  all_goals cases h

theorem stepped_lineIdle {s t : State} (h : execLineIdle s = .next t) : Stepped s t := by
  unfold execLineIdle at h
  split_ifs at h with hl
  split at h
  · next hf => exact (Row.idleAtRest (not_not.1 hl) hf).of_answer h
  · next n hf => exact (Row.idleInSearch n (not_not.1 hl) hf).of_answer h
  · next late hf => exact (Row.idleAfterGap late (not_not.1 hl) hf).of_answer h
  all_goals cases h

theorem stepped_windowOutcome {frame : RawFrame} {slots : SlotsRead} {n : Nat} {s t : State}
    (h : execWindowOutcome frame slots n s = .next t) : Stepped s t := by
  unfold execWindowOutcome at h
  split at h
  · cases h
  · next hf =>
    rw [not_not] at hf
    split at h
    · next hl =>
      split at h
      · cases h
      · dsimp only at h
        split at h
        · next hs => exact (Row.received frame slots n _ hf hl ⟨rfl, hs⟩).of_answer h
        · cases h
    · next tx hl ht =>
      split at h
      · cases h
      · next f hc =>
        dsimp only at h
        split at h
        · next hs => exact (Row.sent tx f slots n _ hf hl ht hc ⟨rfl, hs⟩).of_answer h
        · cases h
    · cases h

theorem stepped_backoffExpiry {slot : CandidateSlot} {s t : State}
    (h : execBackoffExpiry slot s = .next t) : Stepped s t := by
  unfold execBackoffExpiry at h
  split_ifs at h with hb
  exact (Row.backoff slot hb).of_answer h

theorem stepped_fillTimerExpiry {c : Chunk} {s t : State}
    (h : execFillTimerExpiry c s = .next t) : Stepped s t := by
  unfold execFillTimerExpiry at h
  split at h
  · cases h
  · next r hr =>
    split_ifs at h with ha
    exact (Row.fillTimer c r hr ha.1).of_answer h

/-! ### Every step -/

/-- Every row of the opcode table is a run of data writes or one of the rows listed. -/
theorem exec_stepped {i : Instr} {s t : State} (h : exec i s = .next t) : Stepped s t := by
  cases i with
  | tableCommandGrant => exact stepped_tableCommandGrant h
  | dataWrite b => cases h; exact Or.inl ⟨[b], rfl⟩
  | resultRead => exact Row.read.of_answer h
  | misusedRead => exact Row.read.of_answer h
  | resultRefill => exact stepped_resultRefill h
  | portFlush v => exact stepped_portFlush v h
  | hardwareReset source => exact stepped_hardwareReset h
  | resetRelease => exact stepped_resetRelease h
  | powerHoldEnd => exact stepped_powerHoldEnd h
  | groupApply => exact stepped_groupApply h
  | fdatApply => exact stepped_fdatApply h
  | seedApply => exact stepped_seedApply h
  | stepLossClear => exact stepped_stepLossClear h
  | teardownGrant => exact stepped_teardownGrant h
  | fdatPayloadRead => exact stepped_fdatPayloadRead h
  | contentionStart => exact stepped_contentionStart h
  | contentionLost k => exact stepped_contentionLost h
  | frameTaken => exact stepped_frameTaken h
  | truncation => exact stepped_truncation h
  | transmitMismatch bit => exact stepped_transmitMismatch h
  | windowOutcome frame slots n => exact stepped_windowOutcome h
  | holdGap => exact stepped_holdGap h
  | holdIntrusion => exact stepped_holdIntrusion h
  | holdLimitExpired => exact stepped_holdLimitExpired h
  | restReached => exact stepped_restReached h
  | lineIdle => exact stepped_lineIdle h
  | brokenTake => exact stepped_brokenTake h
  | backoffExpiry slot => exact stepped_backoffExpiry h
  | fillTimerExpiry c => exact stepped_fillTimerExpiry h
  | keyWon => exact stepped_keyWon h
  | startMarkNotTaken => exact stepped_startMarkNotTaken h
  | _ => cases h; exact stepped_issue _ _ s

/-- A step takes the front command from the queue, if there is one, and does what `Stepped` says. -/
theorem step_stepped {s t : State} (h : step s = .next t) :
    ∃ q, Stepped { s with pending := q } t := by
  unfold step at h
  split at h
  · cases h; exact ⟨s.pending, stepped_idle s⟩
  · next c rest hq => exact ⟨rest, exec_stepped h⟩

/-- The induction over a step: `P` is what a step may assume and data writes keep, `I` what is kept. -/
theorem step_keeps {P I : State → Prop} (hPI : ∀ s, P s → I s)
    (hqueue : ∀ s q, P s → P { s with pending := q })
    (hwrite : ∀ b s, P s → P (writeData b s)) (harbiter : ∀ s, P s → P (settle s))
    (hrow : ∀ s u, P s → Row s u → I (settle u)) {s t : State} (h : P s) (hstep : step s = .next t) :
    I t := by
  obtain ⟨q, hst⟩ := step_stepped hstep
  have hq : P { s with pending := q } := hqueue s q h
  obtain ⟨bytes, rfl⟩ | ⟨u, hu, rfl⟩ := hst
  · refine hPI _ (List.foldlRecOn bytes acceptByte hq fun x hx b _ => ?_)
    exact harbiter _ (hwrite b x hx)
  · exact hrow _ u hq hu

end Sys2Proof.Machine
end

section
/-!
PROOF. The rows, field by field: for each row and each part of one, what it leaves unchanged in every
case and what it sets whatever the case, of the fields that the invariants read.
-/
namespace Sys2Proof.Machine

/-! ### The station state after a report -/

/-- The station state after a status report (R97): a loss takes IN-STEP to CATCHING-UP, a gain that leaves
no cell UNKNOWN takes CATCHING-UP to IN-STEP. -/
def reportedStation (before after : Table) (st : StationState) : StationState :=
  if lostChunks before after ≠ [] then if st = .inStep then .catchingUp else st
  else if anyGained before after ∧ st = .catchingUp ∧ unknownSummary after = [] then .inStep else st

theorem catchUpLost_station (l : List Chunk) (s : State) :
    (catchUpLost l s).station = if s.station = .inStep then .catchingUp else s.station := by
  unfold catchUpLost
  cases h : s.station <;> simp [h]

theorem catchUpGained_station (s : State) : (catchUpGained s).station =
    if s.station = .catchingUp ∧ s.unknownChunks = [] then .inStep else s.station := by
  unfold catchUpGained
  cases h : s.station with
  | catchingUp => dsimp only; split <;> simp_all
  | inStep => simp [h]
  | offline => simp [h]
  | faulted => simp [h]

@[simp] theorem reportStatus_station (before : Table) (s : State) :
    (reportStatus before s).station = reportedStation before s.table s.station := by
  unfold reportStatus reportedStation
  dsimp only
  split
  · simp [catchUpLost_station]
  · split <;> simp [catchUpGained_station, *]

/-- A report moves no station on or off the line (R97). -/
@[simp] theorem isAttached_reportedStation (before after : Table) (st : StationState) :
    isAttached (reportedStation before after st) = isAttached st := by
  unfold reportedStation
  split_ifs with h1 h2 h3
  · rw [h2]; rfl
  · rfl
  · rw [h3.2.1]; rfl
  · rfl


/-! ### The rows -/

/-- What `readData` leaves unchanged in every case. -/
@[simp] theorem readData_fields (s : State) :
    (readData s).txd = s.txd ∧ (readData s).config = s.config ∧ (readData s).table = s.table ∧
    (readData s).unknownChunks = s.unknownChunks ∧ (readData s).items = s.items ∧
    (readData s).appliedSinceMark = s.appliedSinceMark ∧
    (readData s).pendingClear = s.pendingClear ∧ (readData s).discardedOwn = s.discardedOwn ∧
    (readData s).running = s.running ∧ (readData s).runningDiscarded = s.runningDiscarded ∧
    (readData s).fdatClaim = s.fdatClaim ∧ (readData s).staging = s.staging ∧
    (readData s).committed = s.committed ∧ (readData s).applyPending = s.applyPending ∧
    (readData s).results = s.results ∧ (readData s).needed = s.needed ∧ (readData s).link = s.link ∧
    (readData s).txFrame = s.txFrame ∧ (readData s).fdatCopy = s.fdatCopy ∧
    (readData s).groupAttempts = s.groupAttempts ∧ (readData s).requestTimer = s.requestTimer ∧
    (readData s).groupTimer = s.groupTimer ∧ (readData s).mismatch = s.mismatch ∧
    (readData s).framing = s.framing ∧ (readData s).groupBuffer = s.groupBuffer ∧
    (readData s).station = s.station ∧ (readData s).requests = s.requests ∧
    (readData s).answers = s.answers ∧ (readData s).seedSlot = s.seedSlot ∧
    (readData s).teardownPending = s.teardownPending ∧ (readData s).attnMask = s.attnMask := by
  unfold readData misuseRead
  split; · simp
  · split; · simp
    · simp
    · split; · simp
      · dsimp only; split; · simp
        · split <;> simp

/-- What `applyGroup` leaves unchanged, and what it sets, in every case. -/
@[simp] theorem applyGroup_fields (g : GroupItem) (s : State) :
    (applyGroup g s).txd = s.txd ∧ (applyGroup g s).config = s.config ∧
    (applyGroup g s).port = s.port ∧ (applyGroup g s).table = ((evaluateGroup g s.table).table) ∧
    (applyGroup g s).unknownChunks = (unknownSummary ((evaluateGroup g s.table).table)) ∧
    (applyGroup g s).items = s.items.tail ∧
    (applyGroup g s).appliedSinceMark = (if s.framing = .taking then s.appliedSinceMark + 1 else s.appliedSinceMark) ∧
    (applyGroup g s).pendingClear = (s.pendingClear.map (· - 1)) ∧
    (applyGroup g s).discardedOwn = s.discardedOwn ∧ (applyGroup g s).running = none ∧
    (applyGroup g s).runningDiscarded = false ∧ (applyGroup g s).fdatClaim = s.fdatClaim ∧
    (applyGroup g s).staging = s.staging ∧ (applyGroup g s).link = s.link ∧
    (applyGroup g s).txFrame = s.txFrame ∧ (applyGroup g s).fdatCopy = s.fdatCopy ∧
    (applyGroup g s).groupAttempts = s.groupAttempts ∧ (applyGroup g s).groupTimer = s.groupTimer ∧
    (applyGroup g s).mismatch = s.mismatch ∧ (applyGroup g s).framing = s.framing ∧
    (applyGroup g s).groupBuffer = s.groupBuffer ∧
    (applyGroup g s).station = (reportedStation s.table ((evaluateGroup g s.table).table) s.station) ∧
    (applyGroup g s).seedSlot = s.seedSlot ∧ (applyGroup g s).teardownPending = s.teardownPending ∧
    (applyGroup g s).attnMask = s.attnMask := by
  by_cases h : g.own = true <;> simp [applyGroup, h]

/-- What `applyFdat` leaves unchanged, and what it sets, in every case. -/
@[simp] theorem applyFdat_fields (c : Chunk) (d : ChunkData) (s : State) :
    (applyFdat c d s).txd = s.txd ∧ (applyFdat c d s).config = s.config ∧
    (applyFdat c d s).port = s.port ∧ (applyFdat c d s).table = (adoptChunk s.table c d) ∧
    (applyFdat c d s).unknownChunks = (unknownSummary (adoptChunk s.table c d)) ∧
    (applyFdat c d s).items = s.items.tail ∧
    (applyFdat c d s).appliedSinceMark = (if s.framing = .taking then s.appliedSinceMark + 1 else s.appliedSinceMark) ∧
    (applyFdat c d s).pendingClear = (s.pendingClear.map (· - 1)) ∧
    (applyFdat c d s).discardedOwn = s.discardedOwn ∧ (applyFdat c d s).running = none ∧
    (applyFdat c d s).runningDiscarded = false ∧ (applyFdat c d s).fdatClaim = s.fdatClaim ∧
    (applyFdat c d s).staging = s.staging ∧ (applyFdat c d s).applyPending = s.applyPending ∧
    (applyFdat c d s).results = s.results ∧ (applyFdat c d s).link = s.link ∧
    (applyFdat c d s).txFrame = s.txFrame ∧ (applyFdat c d s).fdatCopy = s.fdatCopy ∧
    (applyFdat c d s).groupAttempts = s.groupAttempts ∧
    (applyFdat c d s).groupTimer = s.groupTimer ∧ (applyFdat c d s).mismatch = s.mismatch ∧
    (applyFdat c d s).framing = s.framing ∧ (applyFdat c d s).groupBuffer = s.groupBuffer ∧
    (applyFdat c d s).station = (reportedStation s.table (adoptChunk s.table c d) s.station) ∧
    (applyFdat c d s).seedSlot = s.seedSlot ∧
    (applyFdat c d s).teardownPending = s.teardownPending ∧
    (applyFdat c d s).attnMask = s.attnMask := by
  unfold applyFdat; dsimp only; split <;> simp

/-- What `applySeed` leaves unchanged, and what it sets, in every case. -/
@[simp] theorem applySeed_fields (s : State) :
    (applySeed s).txd = s.txd ∧ (applySeed s).config = s.config ∧ (applySeed s).port = s.port ∧
    (applySeed s).table = (seedAll s.table) ∧
    (applySeed s).unknownChunks = (unknownSummary (seedAll s.table)) ∧
    (applySeed s).items = s.items.tail ∧
    (applySeed s).appliedSinceMark = (if s.framing = .taking then s.appliedSinceMark + 1 else s.appliedSinceMark) ∧
    (applySeed s).pendingClear = (s.pendingClear.map (· - 1)) ∧
    (applySeed s).discardedOwn = s.discardedOwn ∧ (applySeed s).running = none ∧
    (applySeed s).runningDiscarded = false ∧ (applySeed s).fdatClaim = s.fdatClaim ∧
    (applySeed s).staging = s.staging ∧ (applySeed s).applyPending = s.applyPending ∧
    (applySeed s).results = s.results ∧ (applySeed s).link = s.link ∧
    (applySeed s).txFrame = s.txFrame ∧ (applySeed s).fdatCopy = s.fdatCopy ∧
    (applySeed s).groupAttempts = s.groupAttempts ∧ (applySeed s).groupTimer = s.groupTimer ∧
    (applySeed s).mismatch = s.mismatch ∧ (applySeed s).framing = s.framing ∧
    (applySeed s).groupBuffer = s.groupBuffer ∧
    (applySeed s).station = (reportedStation s.table (seedAll s.table) s.station) ∧
    (applySeed s).seedSlot = s.seedSlot ∧ (applySeed s).teardownPending = s.teardownPending ∧
    (applySeed s).attnMask = s.attnMask := by
  simp [applySeed]

/-- What `runClear` leaves unchanged, and what it sets, in every case. -/
@[simp] theorem runClear_fields (s : State) :
    (runClear s).txd = s.txd ∧ (runClear s).config = s.config ∧ (runClear s).port = s.port ∧
    (runClear s).table = (clearAll s.table) ∧
    (runClear s).unknownChunks = (unknownSummary (clearAll s.table)) ∧
    (runClear s).items = s.items ∧ (runClear s).appliedSinceMark = s.appliedSinceMark ∧
    (runClear s).pendingClear = (if s.pendingClear = some 0 then none else s.pendingClear) ∧
    (runClear s).discardedOwn = s.discardedOwn ∧ (runClear s).running = none ∧
    (runClear s).runningDiscarded = false ∧ (runClear s).fdatClaim = s.fdatClaim ∧
    (runClear s).staging = s.staging ∧ (runClear s).applyPending = s.applyPending ∧
    (runClear s).results = s.results ∧ (runClear s).link = s.link ∧
    (runClear s).txFrame = s.txFrame ∧ (runClear s).fdatCopy = s.fdatCopy ∧
    (runClear s).groupAttempts = s.groupAttempts ∧ (runClear s).groupTimer = s.groupTimer ∧
    (runClear s).mismatch = s.mismatch ∧ (runClear s).framing = s.framing ∧
    (runClear s).groupBuffer = s.groupBuffer ∧
    (runClear s).station = (reportedStation s.table (clearAll s.table) s.station) ∧
    (runClear s).seedSlot = s.seedSlot ∧ (runClear s).teardownPending = s.teardownPending ∧
    (runClear s).attnMask = s.attnMask := by
  simp [runClear]

/-- The teardown's grant up to the START that may have waited for it (R12). -/
def teardownEnded (s : State) : State :=
  completeWait .detachTeardown .ok
    (finishDiscarded (reportStatus s.table
      (endGrant { s with table := clearAll s.table, teardownPending := false })))

theorem runTeardown_eq (s : State) : runTeardown s = startAfterTeardown (teardownEnded s) := rfl

/-- A START that waited attaches at the end of the teardown; otherwise its grant is all (R98). -/
theorem runTeardown_cases (s : State) :
    runTeardown s = attach (teardownEnded s) ∨ runTeardown s = teardownEnded s := by
  rw [runTeardown_eq]
  unfold startAfterTeardown
  split
  · exact Or.inl rfl
  · exact Or.inr rfl

/-- What `teardownEnded` leaves unchanged, and what it sets, in every case. -/
@[simp] theorem teardownEnded_fields (s : State) :
    (teardownEnded s).txd = s.txd ∧ (teardownEnded s).config = s.config ∧
    (teardownEnded s).table = (clearAll s.table) ∧
    (teardownEnded s).unknownChunks = (unknownSummary (clearAll s.table)) ∧
    (teardownEnded s).items = s.items ∧ (teardownEnded s).appliedSinceMark = s.appliedSinceMark ∧
    (teardownEnded s).pendingClear = s.pendingClear ∧ (teardownEnded s).discardedOwn = none ∧
    (teardownEnded s).running = none ∧ (teardownEnded s).runningDiscarded = false ∧
    (teardownEnded s).fdatClaim = s.fdatClaim ∧ (teardownEnded s).staging = s.staging ∧
    (teardownEnded s).link = s.link ∧ (teardownEnded s).txFrame = s.txFrame ∧
    (teardownEnded s).fdatCopy = s.fdatCopy ∧ (teardownEnded s).groupAttempts = s.groupAttempts ∧
    (teardownEnded s).groupTimer = s.groupTimer ∧ (teardownEnded s).mismatch = s.mismatch ∧
    (teardownEnded s).framing = s.framing ∧ (teardownEnded s).groupBuffer = s.groupBuffer ∧
    (teardownEnded s).station = (reportedStation s.table (clearAll s.table) s.station) ∧
    (teardownEnded s).seedSlot = s.seedSlot ∧ (teardownEnded s).teardownPending = false ∧
    (teardownEnded s).attnMask = s.attnMask := by
  simp [teardownEnded]

/-- What `runTeardown` leaves unchanged, and what it sets, in every case. -/
@[simp] theorem runTeardown_fields (s : State) :
    (runTeardown s).config = s.config ∧ (runTeardown s).table = (clearAll s.table) ∧
    (runTeardown s).unknownChunks = (unknownSummary (clearAll s.table)) ∧
    (runTeardown s).items = s.items ∧ (runTeardown s).appliedSinceMark = s.appliedSinceMark ∧
    (runTeardown s).pendingClear = s.pendingClear ∧ (runTeardown s).discardedOwn = none ∧
    (runTeardown s).running = none ∧ (runTeardown s).runningDiscarded = false ∧
    (runTeardown s).fdatClaim = s.fdatClaim ∧ (runTeardown s).staging = s.staging ∧
    (runTeardown s).txFrame = s.txFrame ∧ (runTeardown s).fdatCopy = s.fdatCopy ∧
    (runTeardown s).teardownPending = false ∧ (runTeardown s).attnMask = s.attnMask := by
  unfold runTeardown startAfterTeardown; dsimp only; split <;> simp

/-- What `runFdatRead` leaves unchanged, and what it sets, in every case. -/
@[simp] theorem runFdatRead_fields (c : Chunk) (s : State) :
    (runFdatRead c s).txd = s.txd ∧ (runFdatRead c s).config = s.config ∧
    (runFdatRead c s).port = s.port ∧ (runFdatRead c s).table = s.table ∧
    (runFdatRead c s).unknownChunks = s.unknownChunks ∧ (runFdatRead c s).items = s.items ∧
    (runFdatRead c s).appliedSinceMark = s.appliedSinceMark ∧
    (runFdatRead c s).pendingClear = s.pendingClear ∧
    (runFdatRead c s).discardedOwn = s.discardedOwn ∧ (runFdatRead c s).running = none ∧
    (runFdatRead c s).runningDiscarded = false ∧ (runFdatRead c s).fdatClaim = s.fdatClaim ∧
    (runFdatRead c s).staging = s.staging ∧ (runFdatRead c s).committed = s.committed ∧
    (runFdatRead c s).applyPending = s.applyPending ∧ (runFdatRead c s).results = s.results ∧
    (runFdatRead c s).needed = s.needed ∧ (runFdatRead c s).link = s.link ∧
    (runFdatRead c s).txFrame = s.txFrame ∧ (runFdatRead c s).groupAttempts = s.groupAttempts ∧
    (runFdatRead c s).requestTimer = s.requestTimer ∧ (runFdatRead c s).groupTimer = s.groupTimer ∧
    (runFdatRead c s).mismatch = s.mismatch ∧ (runFdatRead c s).framing = s.framing ∧
    (runFdatRead c s).groupBuffer = s.groupBuffer ∧ (runFdatRead c s).station = s.station ∧
    (runFdatRead c s).requests = s.requests ∧ (runFdatRead c s).answers = s.answers ∧
    (runFdatRead c s).seedSlot = s.seedSlot ∧
    (runFdatRead c s).teardownPending = s.teardownPending ∧ (runFdatRead c s).latches = s.latches ∧
    (runFdatRead c s).attnMask = s.attnMask ∧ (runFdatRead c s).attn = s.attn := by
  unfold runFdatRead; split <;> simp

/-- What `runTableCommand` leaves unchanged, and what it sets, in every case. -/
@[simp] theorem runTableCommand_fields (op : TableOp) (s : State) :
    (runTableCommand op s).txd = s.txd ∧ (runTableCommand op s).config = s.config ∧
    (runTableCommand op s).table = (tableAfter op s.table) ∧
    (runTableCommand op s).unknownChunks = s.unknownChunks ∧
    (runTableCommand op s).items = s.items ∧
    (runTableCommand op s).appliedSinceMark = s.appliedSinceMark ∧
    (runTableCommand op s).pendingClear = s.pendingClear ∧
    (runTableCommand op s).discardedOwn = s.discardedOwn ∧ (runTableCommand op s).running = none ∧
    (runTableCommand op s).runningDiscarded = false ∧
    (runTableCommand op s).fdatClaim = s.fdatClaim ∧ (runTableCommand op s).staging = s.staging ∧
    (runTableCommand op s).committed = s.committed ∧
    (runTableCommand op s).applyPending = s.applyPending ∧
    (runTableCommand op s).results = s.results ∧ (runTableCommand op s).needed = s.needed ∧
    (runTableCommand op s).link = s.link ∧ (runTableCommand op s).txFrame = s.txFrame ∧
    (runTableCommand op s).fdatCopy = s.fdatCopy ∧
    (runTableCommand op s).groupAttempts = s.groupAttempts ∧
    (runTableCommand op s).requestTimer = s.requestTimer ∧
    (runTableCommand op s).groupTimer = s.groupTimer ∧
    (runTableCommand op s).mismatch = s.mismatch ∧ (runTableCommand op s).framing = s.framing ∧
    (runTableCommand op s).groupBuffer = s.groupBuffer ∧
    (runTableCommand op s).station = s.station ∧ (runTableCommand op s).requests = s.requests ∧
    (runTableCommand op s).answers = s.answers ∧ (runTableCommand op s).seedSlot = s.seedSlot ∧
    (runTableCommand op s).teardownPending = s.teardownPending ∧
    (runTableCommand op s).latches = s.latches ∧ (runTableCommand op s).attnMask = s.attnMask ∧
    (runTableCommand op s).attn = s.attn := by
  unfold runTableCommand; dsimp only; split <;> simp

/-- What `runRefill` leaves unchanged, and what it sets, in every case. -/
@[simp] theorem runRefill_fields (s : State) :
    (runRefill s).txd = s.txd ∧ (runRefill s).config = s.config ∧ (runRefill s).table = s.table ∧
    (runRefill s).unknownChunks = s.unknownChunks ∧ (runRefill s).items = s.items ∧
    (runRefill s).appliedSinceMark = s.appliedSinceMark ∧
    (runRefill s).pendingClear = s.pendingClear ∧ (runRefill s).discardedOwn = s.discardedOwn ∧
    (runRefill s).running = none ∧ (runRefill s).runningDiscarded = false ∧
    (runRefill s).fdatClaim = s.fdatClaim ∧ (runRefill s).staging = s.staging ∧
    (runRefill s).committed = s.committed ∧ (runRefill s).applyPending = s.applyPending ∧
    (runRefill s).results = s.results ∧ (runRefill s).needed = s.needed ∧
    (runRefill s).link = s.link ∧ (runRefill s).txFrame = s.txFrame ∧
    (runRefill s).fdatCopy = s.fdatCopy ∧ (runRefill s).groupAttempts = s.groupAttempts ∧
    (runRefill s).requestTimer = s.requestTimer ∧ (runRefill s).groupTimer = s.groupTimer ∧
    (runRefill s).mismatch = s.mismatch ∧ (runRefill s).framing = s.framing ∧
    (runRefill s).groupBuffer = s.groupBuffer ∧ (runRefill s).station = s.station ∧
    (runRefill s).requests = s.requests ∧ (runRefill s).answers = s.answers ∧
    (runRefill s).seedSlot = s.seedSlot ∧ (runRefill s).teardownPending = s.teardownPending ∧
    (runRefill s).latches = s.latches ∧ (runRefill s).attnMask = s.attnMask ∧
    (runRefill s).attn = s.attn := by
  unfold runRefill; dsimp only; split <;> simp

/-- What `beginContention` leaves unchanged, and what it sets, in every case. -/
@[simp] theorem beginContention_fields (f : TxFrame) (s : State) :
    (beginContention f s).txd = [.dominant] ∧ (beginContention f s).config = s.config ∧
    (beginContention f s).port = s.port ∧ (beginContention f s).table = s.table ∧
    (beginContention f s).unknownChunks = s.unknownChunks ∧ (beginContention f s).items = s.items ∧
    (beginContention f s).appliedSinceMark = 0 ∧
    (beginContention f s).pendingClear = s.pendingClear ∧
    (beginContention f s).discardedOwn = s.discardedOwn ∧
    (beginContention f s).running = s.running ∧
    (beginContention f s).runningDiscarded = s.runningDiscarded ∧
    (beginContention f s).staging = s.staging ∧
    (beginContention f s).applyPending = s.applyPending ∧
    (beginContention f s).results = s.results ∧ (beginContention f s).needed = s.needed ∧
    (beginContention f s).link = .contending ∧ (beginContention f s).txFrame = (some f) ∧
    (beginContention f s).groupAttempts = s.groupAttempts ∧
    (beginContention f s).requestTimer = s.requestTimer ∧
    (beginContention f s).groupTimer = s.groupTimer ∧ (beginContention f s).mismatch = s.mismatch ∧
    (beginContention f s).framing = .taking ∧ (beginContention f s).groupBuffer = s.groupBuffer ∧
    (beginContention f s).station = s.station ∧ (beginContention f s).requests = s.requests ∧
    (beginContention f s).answers = s.answers ∧ (beginContention f s).seedSlot = s.seedSlot ∧
    (beginContention f s).teardownPending = s.teardownPending ∧
    (beginContention f s).latches = s.latches ∧ (beginContention f s).attnMask = s.attnMask ∧
    (beginContention f s).attn = s.attn := by
  simp [beginContention]

/-- What `loseKey` leaves unchanged, and what it sets, in every case. -/
@[simp] theorem loseKey_fields (k : Fin 7) (f : TxFrame) (s : State) :
    (loseKey k f s).txd = (levelsTo (k.val + 1) f s ++ [.recessive]) ∧
    (loseKey k f s).config = s.config ∧ (loseKey k f s).port = s.port ∧
    (loseKey k f s).table = s.table ∧ (loseKey k f s).unknownChunks = s.unknownChunks ∧
    (loseKey k f s).items = s.items ∧ (loseKey k f s).appliedSinceMark = s.appliedSinceMark ∧
    (loseKey k f s).pendingClear = s.pendingClear ∧ (loseKey k f s).discardedOwn = s.discardedOwn ∧
    (loseKey k f s).running = s.running ∧ (loseKey k f s).fdatClaim = none ∧
    (loseKey k f s).staging = s.staging ∧ (loseKey k f s).applyPending = s.applyPending ∧
    (loseKey k f s).results = s.results ∧ (loseKey k f s).needed = s.needed ∧
    (loseKey k f s).link = .receiving ∧ (loseKey k f s).txFrame = none ∧
    (loseKey k f s).fdatCopy = none ∧ (loseKey k f s).groupAttempts = s.groupAttempts ∧
    (loseKey k f s).requestTimer = s.requestTimer ∧ (loseKey k f s).groupTimer = s.groupTimer ∧
    (loseKey k f s).mismatch = s.mismatch ∧ (loseKey k f s).framing = s.framing ∧
    (loseKey k f s).groupBuffer = s.groupBuffer ∧ (loseKey k f s).station = s.station ∧
    (loseKey k f s).requests = s.requests ∧ (loseKey k f s).answers = s.answers ∧
    (loseKey k f s).seedSlot = s.seedSlot ∧ (loseKey k f s).teardownPending = s.teardownPending ∧
    (loseKey k f s).latches = s.latches ∧ (loseKey k f s).attnMask = s.attnMask ∧
    (loseKey k f s).attn = s.attn := by
  simp [loseKey]

/-- What `enterFaulted` leaves unchanged, and what it sets, in every case. -/
@[simp] theorem enterFaulted_fields (s : State) :
    (enterFaulted s).txd = [.recessive] ∧ (enterFaulted s).config = s.config ∧
    (enterFaulted s).table = s.table ∧ (enterFaulted s).unknownChunks = s.unknownChunks ∧
    (enterFaulted s).items = (itemsUnderGrant s) ∧
    (enterFaulted s).appliedSinceMark = s.appliedSinceMark ∧ (enterFaulted s).pendingClear = none ∧
    (enterFaulted s).discardedOwn = (ownEntryCount (itemsDiscarded s)) ∧
    (enterFaulted s).running = s.running ∧ (enterFaulted s).fdatClaim = none ∧
    (enterFaulted s).staging = s.staging ∧ (enterFaulted s).committed = none ∧
    (enterFaulted s).applyPending = s.applyPending ∧ (enterFaulted s).link = .off ∧
    (enterFaulted s).txFrame = none ∧ (enterFaulted s).fdatCopy = none ∧
    (enterFaulted s).groupAttempts = 0 ∧ (enterFaulted s).requestTimer = none ∧
    (enterFaulted s).groupTimer = none ∧ (enterFaulted s).mismatch = 4 ∧
    (enterFaulted s).framing = .off ∧ (enterFaulted s).groupBuffer = none ∧
    (enterFaulted s).station = .faulted ∧ (enterFaulted s).requests = [] ∧
    (enterFaulted s).answers = [] ∧ (enterFaulted s).seedSlot = false ∧
    (enterFaulted s).teardownPending = true ∧ (enterFaulted s).attnMask = s.attnMask := by
  simp [enterFaulted, Config.faultMismatches, itemsUnderGrant, itemsDiscarded]

/-- The fourth mismatch in a row takes the station to FAULTED (R74). -/
theorem stopFrame_faulted {bit : MismatchBit} {s : State} (h : 4 ≤ mismatchBefore bit s + 1)
    (f : TxFrame) :
    stopFrame bit f s = stopDriving (mismatchLevels bit f s) (enterFaulted s) := by
  unfold stopFrame
  dsimp only
  rw [if_pos (show mismatchBefore bit s + 1 ≥ Config.faultMismatches from h)]

/-- An earlier mismatch abandons the frame and counts an attempt (R73, R74). -/
theorem stopFrame_counted {bit : MismatchBit} {s : State} (h : ¬ 4 ≤ mismatchBefore bit s + 1)
    (f : TxFrame) :
    stopFrame bit f s = stopDriving (mismatchLevels bit f s)
      (countAttempt f.body (dropFdatRead
        (abandonFrame { s with mismatch := mismatchBefore bit s + 1 }))) := by
  unfold stopFrame
  dsimp only
  rw [if_neg (show ¬ mismatchBefore bit s + 1 ≥ Config.faultMismatches from h)]

/-- What `stopFrame` leaves unchanged in every case. -/
@[simp] theorem stopFrame_fields (bit : MismatchBit) (f : TxFrame) (s : State) :
    (stopFrame bit f s).config = s.config ∧ (stopFrame bit f s).table = s.table ∧
    (stopFrame bit f s).unknownChunks = s.unknownChunks ∧
    (stopFrame bit f s).appliedSinceMark = s.appliedSinceMark ∧
    (stopFrame bit f s).running = s.running ∧ (stopFrame bit f s).staging = s.staging ∧
    (stopFrame bit f s).applyPending = s.applyPending ∧
    (stopFrame bit f s).attnMask = s.attnMask := by
  unfold stopFrame enterFaulted; dsimp only; split <;> simp

/-- What `acceptFrame` leaves unchanged in every case. -/
@[simp] theorem acceptFrame_fields (f : Frame) (s : State) :
    (acceptFrame f s).txd = s.txd ∧ (acceptFrame f s).config = s.config ∧
    (acceptFrame f s).table = s.table ∧ (acceptFrame f s).unknownChunks = s.unknownChunks ∧
    (acceptFrame f s).appliedSinceMark = s.appliedSinceMark ∧
    (acceptFrame f s).pendingClear = s.pendingClear ∧
    (acceptFrame f s).discardedOwn = s.discardedOwn ∧ (acceptFrame f s).running = s.running ∧
    (acceptFrame f s).runningDiscarded = s.runningDiscarded ∧
    (acceptFrame f s).fdatClaim = s.fdatClaim ∧ (acceptFrame f s).staging = s.staging ∧
    (acceptFrame f s).committed = s.committed ∧ (acceptFrame f s).applyPending = s.applyPending ∧
    (acceptFrame f s).results = s.results ∧ (acceptFrame f s).needed = s.needed ∧
    (acceptFrame f s).link = s.link ∧ (acceptFrame f s).txFrame = s.txFrame ∧
    (acceptFrame f s).fdatCopy = s.fdatCopy ∧ (acceptFrame f s).groupAttempts = s.groupAttempts ∧
    (acceptFrame f s).groupTimer = s.groupTimer ∧ (acceptFrame f s).mismatch = s.mismatch ∧
    (acceptFrame f s).framing = s.framing ∧ (acceptFrame f s).station = s.station ∧
    (acceptFrame f s).teardownPending = s.teardownPending ∧ (acceptFrame f s).latches = s.latches ∧
    (acceptFrame f s).attnMask = s.attnMask ∧ (acceptFrame f s).attn = s.attn := by
  unfold acceptFrame; split <;> simp

/-- What `receiveAccepted` leaves unchanged in every case. -/
@[simp] theorem receiveAccepted_fields (v : Verdict) (s : State) :
    (receiveAccepted v s).txd = s.txd ∧ (receiveAccepted v s).config = s.config ∧
    (receiveAccepted v s).table = s.table ∧ (receiveAccepted v s).unknownChunks = s.unknownChunks ∧
    (receiveAccepted v s).appliedSinceMark = s.appliedSinceMark ∧
    (receiveAccepted v s).discardedOwn = s.discardedOwn ∧
    (receiveAccepted v s).running = s.running ∧
    (receiveAccepted v s).runningDiscarded = s.runningDiscarded ∧
    (receiveAccepted v s).fdatClaim = s.fdatClaim ∧ (receiveAccepted v s).staging = s.staging ∧
    (receiveAccepted v s).committed = s.committed ∧
    (receiveAccepted v s).applyPending = s.applyPending ∧
    (receiveAccepted v s).results = s.results ∧ (receiveAccepted v s).needed = s.needed ∧
    (receiveAccepted v s).link = s.link ∧ (receiveAccepted v s).txFrame = s.txFrame ∧
    (receiveAccepted v s).fdatCopy = s.fdatCopy ∧
    (receiveAccepted v s).groupAttempts = s.groupAttempts ∧
    (receiveAccepted v s).groupTimer = s.groupTimer ∧ (receiveAccepted v s).mismatch = s.mismatch ∧
    (receiveAccepted v s).framing = s.framing ∧ (receiveAccepted v s).station = s.station ∧
    (receiveAccepted v s).teardownPending = s.teardownPending ∧
    (receiveAccepted v s).latches = s.latches ∧ (receiveAccepted v s).attnMask = s.attnMask ∧
    (receiveAccepted v s).attn = s.attn := by
  unfold receiveAccepted; split; · simp
  · split <;> simp

/-- What `receiveUnheard` leaves unchanged in every case. -/
@[simp] theorem receiveUnheard_fields (v : Verdict) (s : State) :
    (receiveUnheard v s).txd = s.txd ∧ (receiveUnheard v s).config = s.config ∧
    (receiveUnheard v s).port = s.port ∧ (receiveUnheard v s).table = s.table ∧
    (receiveUnheard v s).unknownChunks = s.unknownChunks ∧
    (receiveUnheard v s).appliedSinceMark = s.appliedSinceMark ∧
    (receiveUnheard v s).discardedOwn = s.discardedOwn ∧ (receiveUnheard v s).running = s.running ∧
    (receiveUnheard v s).runningDiscarded = s.runningDiscarded ∧
    (receiveUnheard v s).fdatClaim = s.fdatClaim ∧ (receiveUnheard v s).staging = s.staging ∧
    (receiveUnheard v s).committed = s.committed ∧
    (receiveUnheard v s).applyPending = s.applyPending ∧ (receiveUnheard v s).results = s.results ∧
    (receiveUnheard v s).needed = s.needed ∧ (receiveUnheard v s).link = s.link ∧
    (receiveUnheard v s).txFrame = s.txFrame ∧ (receiveUnheard v s).fdatCopy = s.fdatCopy ∧
    (receiveUnheard v s).groupAttempts = s.groupAttempts ∧
    (receiveUnheard v s).requestTimer = s.requestTimer ∧
    (receiveUnheard v s).groupTimer = s.groupTimer ∧ (receiveUnheard v s).mismatch = s.mismatch ∧
    (receiveUnheard v s).framing = s.framing ∧ (receiveUnheard v s).station = s.station ∧
    (receiveUnheard v s).requests = s.requests ∧ (receiveUnheard v s).seedSlot = s.seedSlot ∧
    (receiveUnheard v s).teardownPending = s.teardownPending ∧
    (receiveUnheard v s).latches = s.latches ∧ (receiveUnheard v s).attnMask = s.attnMask ∧
    (receiveUnheard v s).attn = s.attn := by
  unfold receiveUnheard; split; · simp
  · split; · simp
    · split <;> simp

/-- What `receiveWindow` leaves unchanged, and what it sets, in every case. -/
@[simp] theorem receiveWindow_fields (v : Verdict) (slot : SlotChoice) (o : WindowOutcome) (s : State) :
    (receiveWindow v slot o s).txd = (windowLevels slot) ∧
    (receiveWindow v slot o s).config = s.config ∧ (receiveWindow v slot o s).table = s.table ∧
    (receiveWindow v slot o s).unknownChunks = s.unknownChunks ∧
    (receiveWindow v slot o s).appliedSinceMark = s.appliedSinceMark ∧
    (receiveWindow v slot o s).discardedOwn = s.discardedOwn ∧
    (receiveWindow v slot o s).running = s.running ∧
    (receiveWindow v slot o s).runningDiscarded = s.runningDiscarded ∧
    (receiveWindow v slot o s).fdatClaim = s.fdatClaim ∧
    (receiveWindow v slot o s).staging = s.staging ∧
    (receiveWindow v slot o s).committed = s.committed ∧
    (receiveWindow v slot o s).applyPending = s.applyPending ∧
    (receiveWindow v slot o s).results = s.results ∧ (receiveWindow v slot o s).needed = s.needed ∧
    (receiveWindow v slot o s).link = .listen ∧ (receiveWindow v slot o s).txFrame = s.txFrame ∧
    (receiveWindow v slot o s).fdatCopy = s.fdatCopy ∧
    (receiveWindow v slot o s).groupAttempts = s.groupAttempts ∧
    (receiveWindow v slot o s).groupTimer = s.groupTimer ∧
    (receiveWindow v slot o s).mismatch = s.mismatch ∧
    (receiveWindow v slot o s).framing = (.gap false) ∧
    (receiveWindow v slot o s).station = s.station ∧
    (receiveWindow v slot o s).teardownPending = s.teardownPending ∧
    (receiveWindow v slot o s).latches = s.latches ∧
    (receiveWindow v slot o s).attnMask = s.attnMask ∧
    (receiveWindow v slot o s).attn = s.attn := by
  unfold receiveWindow; dsimp only; split <;> simp

/-- What `ownAccepted` leaves unchanged in every case. -/
@[simp] theorem ownAccepted_fields (f : Frame) (s : State) :
    (ownAccepted f s).txd = s.txd ∧ (ownAccepted f s).config = s.config ∧
    (ownAccepted f s).table = s.table ∧ (ownAccepted f s).unknownChunks = s.unknownChunks ∧
    (ownAccepted f s).appliedSinceMark = s.appliedSinceMark ∧
    (ownAccepted f s).pendingClear = s.pendingClear ∧
    (ownAccepted f s).discardedOwn = s.discardedOwn ∧ (ownAccepted f s).running = s.running ∧
    (ownAccepted f s).runningDiscarded = s.runningDiscarded ∧
    (ownAccepted f s).fdatClaim = s.fdatClaim ∧ (ownAccepted f s).staging = s.staging ∧
    (ownAccepted f s).results = s.results ∧ (ownAccepted f s).needed = s.needed ∧
    (ownAccepted f s).fdatCopy = s.fdatCopy ∧ (ownAccepted f s).groupAttempts = s.groupAttempts ∧
    (ownAccepted f s).mismatch = s.mismatch ∧ (ownAccepted f s).framing = s.framing ∧
    (ownAccepted f s).groupBuffer = s.groupBuffer ∧ (ownAccepted f s).station = s.station ∧
    (ownAccepted f s).teardownPending = s.teardownPending ∧ (ownAccepted f s).latches = s.latches ∧
    (ownAccepted f s).attnMask = s.attnMask ∧ (ownAccepted f s).attn = s.attn := by
  unfold ownAccepted; split; · split <;> simp
  all_goals simp

/-- What `senderWindow` leaves unchanged, and what it sets, in every case. -/
@[simp] theorem senderWindow_fields (tx : TxFrame) (f : Frame) (slot : SlotChoice) (o : WindowOutcome) (s : State) :
    (senderWindow tx f slot o s).txd = (restLevels tx s ++ windowLevels slot) ∧
    (senderWindow tx f slot o s).config = s.config ∧ (senderWindow tx f slot o s).table = s.table ∧
    (senderWindow tx f slot o s).unknownChunks = s.unknownChunks ∧
    (senderWindow tx f slot o s).appliedSinceMark = s.appliedSinceMark ∧
    (senderWindow tx f slot o s).pendingClear = s.pendingClear ∧
    (senderWindow tx f slot o s).discardedOwn = s.discardedOwn ∧
    (senderWindow tx f slot o s).running = s.running ∧
    (senderWindow tx f slot o s).runningDiscarded = s.runningDiscarded ∧
    (senderWindow tx f slot o s).fdatClaim = s.fdatClaim ∧
    (senderWindow tx f slot o s).staging = s.staging ∧
    (senderWindow tx f slot o s).fdatCopy = none ∧ (senderWindow tx f slot o s).mismatch = 0 ∧
    (senderWindow tx f slot o s).framing = (.gap false) ∧
    (senderWindow tx f slot o s).station = s.station ∧
    (senderWindow tx f slot o s).teardownPending = s.teardownPending ∧
    (senderWindow tx f slot o s).attnMask = s.attnMask := by
  unfold senderWindow; dsimp only; split <;> simp

/-- What `expireBackoff` leaves unchanged in every case. -/
@[simp] theorem expireBackoff_fields (slot : CandidateSlot) (s : State) :
    (expireBackoff slot s).txd = s.txd ∧ (expireBackoff slot s).config = s.config ∧
    (expireBackoff slot s).port = s.port ∧ (expireBackoff slot s).table = s.table ∧
    (expireBackoff slot s).unknownChunks = s.unknownChunks ∧
    (expireBackoff slot s).items = s.items ∧
    (expireBackoff slot s).appliedSinceMark = s.appliedSinceMark ∧
    (expireBackoff slot s).pendingClear = s.pendingClear ∧
    (expireBackoff slot s).discardedOwn = s.discardedOwn ∧
    (expireBackoff slot s).running = s.running ∧
    (expireBackoff slot s).runningDiscarded = s.runningDiscarded ∧
    (expireBackoff slot s).fdatClaim = s.fdatClaim ∧ (expireBackoff slot s).staging = s.staging ∧
    (expireBackoff slot s).applyPending = s.applyPending ∧
    (expireBackoff slot s).results = s.results ∧ (expireBackoff slot s).needed = s.needed ∧
    (expireBackoff slot s).link = s.link ∧ (expireBackoff slot s).txFrame = s.txFrame ∧
    (expireBackoff slot s).fdatCopy = s.fdatCopy ∧
    (expireBackoff slot s).groupAttempts = s.groupAttempts ∧
    (expireBackoff slot s).mismatch = s.mismatch ∧ (expireBackoff slot s).framing = s.framing ∧
    (expireBackoff slot s).groupBuffer = s.groupBuffer ∧
    (expireBackoff slot s).station = s.station ∧ (expireBackoff slot s).requests = s.requests ∧
    (expireBackoff slot s).answers = s.answers ∧ (expireBackoff slot s).seedSlot = s.seedSlot ∧
    (expireBackoff slot s).teardownPending = s.teardownPending ∧
    (expireBackoff slot s).latches = s.latches ∧ (expireBackoff slot s).attnMask = s.attnMask ∧
    (expireBackoff slot s).attn = s.attn := by
  unfold expireBackoff; split <;> simp

/-- What `expireFill` leaves unchanged in every case. -/
@[simp] theorem expireFill_fields (r : Request) (s : State) :
    (expireFill r s).txd = s.txd ∧ (expireFill r s).config = s.config ∧
    (expireFill r s).port = s.port ∧ (expireFill r s).table = s.table ∧
    (expireFill r s).unknownChunks = s.unknownChunks ∧ (expireFill r s).items = s.items ∧
    (expireFill r s).appliedSinceMark = s.appliedSinceMark ∧
    (expireFill r s).pendingClear = s.pendingClear ∧
    (expireFill r s).discardedOwn = s.discardedOwn ∧ (expireFill r s).running = s.running ∧
    (expireFill r s).runningDiscarded = s.runningDiscarded ∧
    (expireFill r s).fdatClaim = s.fdatClaim ∧ (expireFill r s).staging = s.staging ∧
    (expireFill r s).applyPending = s.applyPending ∧ (expireFill r s).link = s.link ∧
    (expireFill r s).txFrame = s.txFrame ∧ (expireFill r s).fdatCopy = s.fdatCopy ∧
    (expireFill r s).groupAttempts = s.groupAttempts ∧ (expireFill r s).mismatch = s.mismatch ∧
    (expireFill r s).framing = s.framing ∧ (expireFill r s).groupBuffer = s.groupBuffer ∧
    (expireFill r s).station = s.station ∧ (expireFill r s).answers = s.answers ∧
    (expireFill r s).seedSlot = s.seedSlot ∧ (expireFill r s).teardownPending = s.teardownPending ∧
    (expireFill r s).attnMask = s.attnMask := by
  unfold expireFill; dsimp only; split <;> simp

/-- What `acceptCommit` leaves unchanged, and what it sets, in every case. -/
@[simp] theorem acceptCommit_fields (strict : Byte) (s : State) :
    (acceptCommit strict s).txd = s.txd ∧ (acceptCommit strict s).config = s.config ∧
    (acceptCommit strict s).table = s.table ∧
    (acceptCommit strict s).unknownChunks = s.unknownChunks ∧
    (acceptCommit strict s).items = s.items ∧
    (acceptCommit strict s).appliedSinceMark = s.appliedSinceMark ∧
    (acceptCommit strict s).pendingClear = s.pendingClear ∧
    (acceptCommit strict s).discardedOwn = s.discardedOwn ∧
    (acceptCommit strict s).running = s.running ∧
    (acceptCommit strict s).runningDiscarded = s.runningDiscarded ∧
    (acceptCommit strict s).fdatClaim = s.fdatClaim ∧
    (acceptCommit strict s).applyPending = s.applyPending ∧ (acceptCommit strict s).link = s.link ∧
    (acceptCommit strict s).txFrame = s.txFrame ∧ (acceptCommit strict s).fdatCopy = s.fdatCopy ∧
    (acceptCommit strict s).groupTimer = s.groupTimer ∧
    (acceptCommit strict s).mismatch = s.mismatch ∧ (acceptCommit strict s).framing = s.framing ∧
    (acceptCommit strict s).groupBuffer = s.groupBuffer ∧
    (acceptCommit strict s).station = s.station ∧ (acceptCommit strict s).answers = s.answers ∧
    (acceptCommit strict s).seedSlot = s.seedSlot ∧
    (acceptCommit strict s).teardownPending = s.teardownPending ∧
    (acceptCommit strict s).latches = s.latches ∧ (acceptCommit strict s).attnMask = s.attnMask ∧
    (acceptCommit strict s).attn = s.attn ∧ (acceptCommit strict s).staging = [] ∧
    (acceptCommit strict s).groupAttempts = 0 := by
  unfold acceptCommit; dsimp only; split <;> simp

end Sys2Proof.Machine
end

section
/-!
PROOF. The table port arbiter, and what every step keeps of the ATTN pin, the port FIFO and the mismatch
count (R13, R153, R136, R74).
-/
namespace Sys2Proof.Machine

/-! ### The order of Table 1-4 -/

/-- A free port that the arbiter grants (R13). -/
theorem settle_of_nextGrant {s : State} {g : Grant} (hr : s.running = none)
    (hg : nextGrant s = some g) :
    settle s = { s with
      running := some g, runningDiscarded := false
      fdatClaim := if servesFdat g then none else s.fdatClaim
      portClaim := if servesPort g then none else s.portClaim } := by
  simp [settle, hr, hg]

/-- The arbiter serves the ranks of Table 1-4 in their order, and a granted claim leaves those that wait. -/
theorem settle_order (s : State) :
    (∀ g, s.running = some g → settle s = s)
    ∧ (s.running = none →
      (s.teardownPending = true → settle s = granted .teardown s)
      ∧ (s.teardownPending = false →
        (s.pendingClear = some 0 → settle s = granted .stepLossClear s)
        ∧ (s.pendingClear ≠ some 0 →
          (s.items ≠ [] → settle s = granted .apply s)
          ∧ (s.items = [] →
            (∀ c, s.fdatClaim = some c →
              settle s = granted (.fdatRead c) { s with fdatClaim := none })
            ∧ (s.fdatClaim = none →
              (∀ p, s.portClaim = some p →
                settle s = granted (.port p) { s with portClaim := none })
              ∧ (s.portClaim = none → settle s = s)))))) := by
  refine ⟨fun g hg => settle_of_running (by rw [hg]; rfl), fun hr => ⟨fun ht => ?_, fun ht =>
    ⟨fun hc => ?_, fun hc => ⟨fun hi => ?_, fun hi => ⟨fun c hf => ?_, fun hf =>
      ⟨fun p hp => ?_, fun hp => ?_⟩⟩⟩⟩⟩⟩
  · exact settle_of_nextGrant hr (by simp [nextGrant, ht])
  · exact settle_of_nextGrant hr (by simp [nextGrant, ht, hc])
  · exact settle_of_nextGrant hr (by simp [nextGrant, ht, hc, hi])
  · exact settle_of_nextGrant hr (by simp [nextGrant, ht, hc, hi, hf])
  · exact settle_of_nextGrant hr (by simp [nextGrant, ht, hc, hi, hf, hp])
  · exact settle_of_no_claim ((nextGrant_eq_none_iff s).2 ⟨ht, hc, hi, hf, hp⟩)

/-- A run of data writes leaves the arbiter settled (R13). -/
theorem arbiterSettled_foldl (bytes : List Byte) {s : State} (h : ArbiterSettled s) :
    ArbiterSettled (bytes.foldl acceptByte s) :=
  List.foldlRecOn bytes acceptByte h fun _ _ _ _ => arbiterSettled_settle _

/-- Every step leaves the arbiter settled, for the arbiter is served last (R13). -/
theorem step_arbiterSettled {s t : State} (h : ArbiterSettled s) (hs : step s = .next t) :
    ArbiterSettled t := by
  obtain ⟨q, hst⟩ := step_stepped hs
  obtain ⟨bytes, rfl⟩ | ⟨u, _, rfl⟩ := hst
  · exact arbiterSettled_foldl bytes h
  · exact arbiterSettled_settle u

/-! ### The ATTN pin (R153) -/

/-- The pin as the latches and the mask give it (R153). -/
def PinAgrees (s : State) : Prop := s.attn = pinFor s.latches s.attnMask

theorem mem_causesByRank (c : Cause) : c ∈ causesByRank := by cases c <;> decide

theorem attnFollowsLatches_iff (s : State) : AttnFollowsLatches s ↔ PinAgrees s := by
  have hpin : pinFor s.latches s.attnMask = true
      ↔ ∃ c, causeGet s.latches c = true ∧ s.attnMask.getLsbD (causeCode c) = false := by
    simp [pinFor, mem_causesByRank]
  unfold AttnFollowsLatches PinAgrees
  rw [← hpin]
  exact Bool.eq_iff_iff.symm

/-- A cause that latches has its pin judged, whatever the pin was. -/
theorem pinAgrees_latchCause (c : Cause) (d : Byte) (s : State) : PinAgrees (latchCause c d s) := rfl

theorem pinAgrees_copyAttention (s : State) : PinAgrees (copyAttention s) := rfl

theorem pinAgrees_attach (s : State) : PinAgrees (attach s) := rfl

theorem pinAgrees_latchHits (hits : List Byte) {s : State} (h : PinAgrees s) :
    PinAgrees (latchHits hits s) := by
  rw [latchHits_eq]
  cases hits.getLast? with
  | none => exact h
  | some i => exact pinAgrees_latchCause _ _ _

theorem pinAgrees_failChunk (c : Chunk) (s : State) : PinAgrees (failChunk c s) := by
  unfold failChunk
  dsimp only
  split
  · split <;> exact pinAgrees_latchCause _ _ _
  · exact pinAgrees_latchCause _ _ _

theorem pinAgrees_catchUpLost (l : List Chunk) {s : State} (h : PinAgrees s) :
    PinAgrees (catchUpLost l s) := by
  unfold catchUpLost
  cases s.station with
  | inStep => simp [PinAgrees]
  | catchingUp => simpa [PinAgrees] using h
  | offline => exact h
  | faulted => exact h

theorem pinAgrees_catchUpGained {s : State} (h : PinAgrees s) : PinAgrees (catchUpGained s) := by
  unfold catchUpGained
  cases s.station with
  | catchingUp =>
    dsimp only
    split
    · exact pinAgrees_latchCause _ _ _
    · exact h
  | inStep => exact h
  | offline => exact h
  | faulted => exact h

theorem pinAgrees_reportStatus (before : Table) {s : State} (h : PinAgrees s) :
    PinAgrees (reportStatus before s) := by
  unfold reportStatus
  dsimp only
  split
  · simpa [PinAgrees] using pinAgrees_catchUpLost (lostChunks before s.table)
      (s := { s with unknownChunks := unknownSummary s.table }) h
  · split
    · simpa [PinAgrees] using pinAgrees_catchUpGained
        (s := { s with unknownChunks := unknownSummary s.table }) h
    · exact h

theorem pinAgrees_countGroup {s : State} (h : PinAgrees s) : PinAgrees (countGroup s) := by
  unfold countGroup
  cases s.committed with
  | none => exact h
  | some g =>
    dsimp only
    split
    · exact pinAgrees_latchCause _ _ _
    · exact h

theorem pinAgrees_countAttempt (body : TxBody) {s : State} (h : PinAgrees s) :
    PinAgrees (countAttempt body s) := by
  cases body with
  | seed => simpa [countAttempt, PinAgrees] using h
  | freq c =>
    simp only [countAttempt, countRequest]
    cases findRequest s.requests c with
    | none => exact h
    | some r =>
      dsimp only
      split
      · exact pinAgrees_failChunk c s
      · exact h
  | upd e => exact pinAgrees_countGroup h
  | fdat c => simpa [countAttempt, PinAgrees] using h

theorem pinAgrees_leaveLine (st : StationState) {s : State} (h : PinAgrees s) :
    PinAgrees (leaveLine st s) := by
  unfold leaveLine dropGroup
  dsimp only
  split
  · exact pinAgrees_latchCause _ _ _
  · simpa [PinAgrees] using h

theorem pinAgrees_addWanted (l : List Chunk) {s : State} (h : PinAgrees s) :
    PinAgrees (addWanted l s) := by simpa [PinAgrees] using h

theorem command_pinAgrees {s x : State} (h : PinAgrees s) (hx : Command s x) : PinAgrees x := by
  cases hx with
  | misuse m => exact pinAgrees_latchCause _ _ _
  | configure p hs hp => exact pinAgrees_copyAttention _
  | start hs ht => exact pinAgrees_attach s
  | detach hs => exact pinAgrees_leaveLine _ h
  | reset => exact pinAgrees_copyAttention _
  | commit strict hr =>
    unfold acceptCommit
    dsimp only
    split
    · simpa [PinAgrees] using h
    · exact h
  | refill hs hq => exact pinAgrees_addWanted _ h
  | status c => exact rfl
  | ackAll => exact rfl
  | nothing | lock | leaveFaulted | stage | unstage | withdraw | claim | seed => exact h

theorem pinAgrees_readData {s : State} (h : PinAgrees s) : PinAgrees (readData s) := by
  by_cases hr : inReset s = true
  · simpa [readData, hr, PinAgrees] using h
  · rw [Bool.not_eq_true] at hr
    cases hp : s.port.phase with
    | command => rw [readData_command hr hp]; exact pinAgrees_latchCause _ _ _
    | execution => rw [readData_execution hr hp]; exact pinAgrees_latchCause _ _ _
    | result =>
      cases hf : s.port.fifo with
      | nil => rw [readData_drained hr hp hf]; exact pinAgrees_latchCause _ _ _
      | cons b rest =>
        rw [readData_result hr hp hf]
        split_ifs <;> exact h

theorem pinAgrees_applyGroup (g : GroupItem) {s : State} (h : PinAgrees s) :
    PinAgrees (applyGroup g s) := by
  have hits := pinAgrees_latchHits (evaluateGroup g s.table).hits
    (s := { s with table := (evaluateGroup g s.table).table }) h
  unfold applyGroup
  dsimp only
  split
  · exact pinAgrees_latchCause _ _ _
  · exact pinAgrees_reportStatus _ hits

theorem pinAgrees_applyFdat (c : Chunk) (d : ChunkData) {s : State} (h : PinAgrees s) :
    PinAgrees (applyFdat c d s) := by
  unfold applyFdat
  dsimp only
  refine pinAgrees_reportStatus _ ?_
  split
  · exact rfl
  · exact h

theorem pinAgrees_finishDiscarded {s : State} (h : PinAgrees s) : PinAgrees (finishDiscarded s) := by
  unfold finishDiscarded
  split
  · exact pinAgrees_latchCause _ _ _
  · exact h

theorem pinAgrees_completeWait (w : Wait) (c : Code) {s : State} (h : PinAgrees s) :
    PinAgrees (completeWait w c s) := by simpa [PinAgrees] using h

theorem pinAgrees_runTeardown {s : State} (h : PinAgrees s) : PinAgrees (runTeardown s) := by
  unfold runTeardown startAfterTeardown
  dsimp only
  split
  · exact pinAgrees_attach _
  · exact pinAgrees_completeWait _ _ (pinAgrees_finishDiscarded (pinAgrees_reportStatus _ h))

theorem pinAgrees_stopFrame (bit : MismatchBit) (f : TxFrame) {s : State} (h : PinAgrees s) :
    PinAgrees (stopFrame bit f s) := by
  unfold stopFrame enterFaulted
  dsimp only
  split
  · exact rfl
  · exact pinAgrees_countAttempt f.body (s := dropFdatRead (abandonFrame _)) h

theorem pinAgrees_senderWindow (tx : TxFrame) (f : Frame) (slot : SlotChoice) (o : WindowOutcome)
    {s : State} (h : PinAgrees s) : PinAgrees (senderWindow tx f slot o s) := by
  unfold senderWindow
  dsimp only
  split
  · unfold ownAccepted
    cases f.body with
    | upd e =>
      dsimp only
      split
      · simpa [PinAgrees] using h
      · exact h
    | seed => simpa [PinAgrees] using h
    | freq c => simpa [PinAgrees] using h
    | fdat c d => simpa [PinAgrees] using h
  · exact pinAgrees_countAttempt _ h

theorem pinAgrees_receiveWindow (v : Verdict) (slot : SlotChoice) (o : WindowOutcome)
    {s : State} (h : PinAgrees s) : PinAgrees (receiveWindow v slot o s) := by
  simpa [PinAgrees] using h

theorem pinAgrees_expireFill (r : Request) {s : State} (h : PinAgrees s) :
    PinAgrees (expireFill r s) := by
  unfold expireFill
  dsimp only
  split
  · exact pinAgrees_failChunk _ _
  · exact h

theorem row_pinAgrees {s u : State} (h : PinAgrees s) (hu : Row s u) : PinAgrees u := by
  cases hu with
  | read => exact pinAgrees_readData h
  | hardReset => exact rfl
  | groupApply g => exact pinAgrees_applyGroup g h
  | fdatApply c d => exact pinAgrees_applyFdat c d h
  | seedApply => exact pinAgrees_reportStatus _ h
  | stepLossClear => exact pinAgrees_reportStatus _ h
  | teardown => exact pinAgrees_runTeardown h
  | mismatch bit f => exact pinAgrees_stopFrame bit f h
  | holdIntrusion => exact pinAgrees_countGroup (s := takeFrame _) (by simpa [PinAgrees] using h)
  | received => exact pinAgrees_receiveWindow _ _ _ h
  | sent tx f => exact pinAgrees_senderWindow tx f _ _ h
  | fillTimer c r => exact pinAgrees_expireFill r h
  | _ => simpa [PinAgrees] using h

theorem settle_pinAgrees {s : State} (h : PinAgrees s) : PinAgrees (settle s) := by
  simpa [PinAgrees] using h

theorem step_pinAgrees {s t : State} (h : PinAgrees s) (hs : step s = .next t) : PinAgrees t :=
  step_keeps (P := PinAgrees) (fun _ => id) (fun _ _ => id)
    (fun b _ => writeData_keeps (fun _ _ => id) (fun _ _ => command_pinAgrees) b)
    (fun _ => settle_pinAgrees) (fun _ _ h hu => settle_pinAgrees (row_pinAgrees h hu)) h hs

/-! ### The port FIFO (R136) -/

theorem fifoFits_writeData (b : Byte) {s : State} (h : FifoFits s.port) :
    FifoFits (writeData b s).port := by
  obtain ⟨q, hq, x, p, _, hw, hp⟩ := taken_writeData b s
  rw [hw]
  exact hp (hq h)

theorem fifoFits_readData {s : State} (h : FifoFits s.port) : FifoFits (readData s).port := by
  by_cases hr : inReset s = true
  · simpa [readData, hr] using h
  · rw [Bool.not_eq_true] at hr
    cases hp : s.port.phase with
    | command => rw [readData_command hr hp]; exact h
    | execution => rw [readData_execution hr hp]; exact h
    | result =>
      cases hf : s.port.fifo with
      | nil => rw [readData_drained hr hp hf]; exact h
      | cons b rest =>
        rw [readData_result hr hp hf]
        split_ifs
        · rw [FifoFits, hf] at h
          exact Nat.le_of_succ_le h
        · exact fifoFits_idle
        · exact Nat.zero_le _

theorem fifoFits_countAttempt (body : TxBody) {s : State} (h : FifoFits s.port) :
    FifoFits (countAttempt body s).port := by
  cases body with
  | seed =>
    simp only [countAttempt, countSeed]
    split
    · exact fifoFits_emptySeedSlot _ h
    · exact h
  | freq c => simpa [countAttempt] using h
  | upd e => simpa [countAttempt] using h
  | fdat c => simpa [countAttempt] using h

theorem fifoFits_acceptSeed {s : State} (h : FifoFits s.port) : FifoFits (acceptSeed s).port :=
  fifoFits_emptySeedSlot _ (by simpa using h)

theorem fifoFits_acceptFrame (f : Frame) {s : State} (h : FifoFits s.port) :
    FifoFits (acceptFrame f s).port := by
  unfold acceptFrame
  cases f.body with
  | upd e => simpa using h
  | freq c => simpa using h
  | fdat c d => simpa using h
  | seed => exact fifoFits_acceptSeed h

theorem fifoFits_ownAccepted (f : Frame) {s : State} (h : FifoFits s.port) :
    FifoFits (ownAccepted f s).port := by
  unfold ownAccepted
  cases f.body with
  | upd e => dsimp only; split <;> simpa using h
  | freq c => simpa using h
  | fdat c d => simpa using h
  | seed => exact fifoFits_acceptSeed h

theorem fifoFits_receiveWindow (v : Verdict) (slot : SlotChoice) (o : WindowOutcome) {s : State}
    (h : FifoFits s.port) : FifoFits (receiveWindow v slot o s).port := by
  unfold receiveWindow
  cases o with
  | rejected => exact h
  | unheard => simpa using h
  | accepted =>
    dsimp only [receiveAccepted]
    cases v with
    | faulty => simpa using h
    | sound f =>
      dsimp only
      split
      · simpa using h
      · exact fifoFits_acceptFrame f h

theorem fifoFits_senderWindow (tx : TxFrame) (f : Frame) (slot : SlotChoice) (o : WindowOutcome)
    {s : State} (h : FifoFits s.port) : FifoFits (senderWindow tx f slot o s).port := by
  unfold senderWindow
  dsimp only
  split
  · exact fifoFits_ownAccepted f h
  · exact fifoFits_countAttempt _ h

theorem fifoFits_stopFrame (bit : MismatchBit) (f : TxFrame) {s : State} (h : FifoFits s.port) :
    FifoFits (stopFrame bit f s).port := by
  unfold stopFrame
  dsimp only
  split
  · exact fifoFits_leaveLine (s := { s with mismatch := _ }) _ h
  · exact fifoFits_countAttempt f.body (s := dropFdatRead (abandonFrame _)) h

theorem fifoFits_runTeardown {s : State} (h : FifoFits s.port) : FifoFits (runTeardown s).port := by
  unfold runTeardown startAfterTeardown
  dsimp only
  split
  · exact fifoFits_portWithResult _ _
  · simp only [completeWait_fields]
    exact fifoFits_ite _ _ (by simpa using h)

theorem row_fifoFits {s u : State} (h : FifoFits s.port) (hu : Row s u) : FifoFits u.port := by
  cases hu with
  | read => exact fifoFits_readData h
  | flush => exact fifoFits_idle
  | hardReset => exact fifoFits_idle
  | teardown => exact fifoFits_runTeardown h
  | tableCommand op =>
    unfold runTableCommand
    dsimp only
    split
    · exact h
    · exact fifoFits_portWithResult _ _
  | refill =>
    unfold runRefill
    dsimp only
    split
    · exact h
    · exact List.length_take_le _ _
  | mismatch bit f => exact fifoFits_stopFrame bit f h
  | received => exact fifoFits_receiveWindow _ _ _ h
  | sent tx f => exact fifoFits_senderWindow tx f _ _ h
  | _ => simpa using h

/-! ### The mismatch count (R74) -/

/-- The mismatch count within its bounds, below 4 on the line (R74). -/
def MismatchFits (s : State) : Prop :=
  s.mismatch ≤ 4 ∧ (isAttached s.station = true → s.mismatch < 4)

theorem mismatchFits_of_mismatch_le {s : State} (h : s.mismatch < 4) : MismatchFits s :=
  ⟨Nat.le_of_lt h, fun _ => h⟩

theorem command_mismatchFits {s x : State} (h : MismatchFits s) (hx : Command s x) :
    MismatchFits x := by
  cases hx with
  | start hs ht => exact mismatchFits_of_mismatch_le (show 0 < 4 by decide)
  | leaveFaulted hs => exact ⟨h.1, fun ha => absurd ha (by simp [isAttached])⟩
  | detach hs => exact ⟨by simpa using h.1, fun ha => absurd ha (by simp [isAttached])⟩
  | reset => exact mismatchFits_of_mismatch_le (show 0 < 4 by decide)
  | commit strict hr =>
    unfold acceptCommit
    dsimp only
    split <;> simpa [MismatchFits] using h
  | _ => simpa [MismatchFits] using h

theorem mismatchFits_stopFrame (bit : MismatchBit) (f : TxFrame) (s : State) :
    MismatchFits (stopFrame bit f s) := by
  unfold stopFrame
  dsimp only
  split
  · simp [MismatchFits, enterFaulted, Config.faultMismatches, isAttached]
  · next h =>
    refine mismatchFits_of_mismatch_le ?_
    have hlt : mismatchBefore bit s + 1 < 4 := Nat.lt_of_not_le h
    simpa using hlt

theorem mismatchFits_runTeardown {s : State} (h : MismatchFits s) : MismatchFits (runTeardown s) := by
  unfold runTeardown startAfterTeardown
  dsimp only
  split
  · exact mismatchFits_of_mismatch_le (show 0 < 4 by decide)
  · simpa [MismatchFits] using h

theorem row_mismatchFits {s u : State} (h : MismatchFits s) (hu : Row s u) : MismatchFits u := by
  cases hu with
  | hardReset => exact mismatchFits_of_mismatch_le (show 0 < 4 by decide)
  | teardown => exact mismatchFits_runTeardown h
  | mismatch bit f => exact mismatchFits_stopFrame bit f s
  | sent => exact mismatchFits_of_mismatch_le (by simp)
  | _ => simpa [MismatchFits] using h

/-! ### Both counts, and the statement -/

theorem countsBounded_settle {s : State} (h : CountsBounded s) : CountsBounded (settle s) := by
  simpa [CountsBounded] using h

theorem countsBounded_writeData (b : Byte) {s : State} (h : CountsBounded s) :
    CountsBounded (writeData b s) :=
  ⟨fifoFits_writeData b h.1,
    writeData_keeps (P := MismatchFits) (fun _ _ => id) (fun _ _ => command_mismatchFits) b h.2⟩

theorem row_countsBounded {s u : State} (h : CountsBounded s) (hu : Row s u) : CountsBounded u :=
  ⟨row_fifoFits h.1 hu, row_mismatchFits h.2 hu⟩

theorem step_countsBounded {s t : State} (h : CountsBounded s) (hs : step s = .next t) :
    CountsBounded t :=
  step_keeps (P := CountsBounded) (fun _ => id) (fun _ _ => id) (fun b _ => countsBounded_writeData b)
    (fun _ => countsBounded_settle) (fun _ _ h hu => countsBounded_settle (row_countsBounded h hu)) h hs

/-- Settles O57: the order from the arbiter's one definition, the rest from what each row keeps. -/
theorem stepKeepsPinArbiterAndCounts : Obligations.StepKeepsPinArbiterAndCounts :=
  ⟨settle_order, fun s t hs =>
    ⟨fun h => (attnFollowsLatches_iff t).2 (step_pinAgrees ((attnFollowsLatches_iff s).1 h) hs),
      fun h => step_arbiterSettled h hs, fun h => step_countsBounded h hs⟩⟩

end Sys2Proof.Machine
end

section
/-!
PROOF. The status report at the end of a grant (R4, R5, R97, R125), field by field: what a loss and a
gain of cells do to the station, the causes, the request and answer lists, and a group that waits.
-/
namespace Sys2Proof.Machine

/-! ### The three cases of a report -/

/-- The state whose summary has just been brought up to date (R5). -/
def summarised (s : State) : State := { s with unknownChunks := unknownSummary s.table }

@[simp] theorem summarised_fields (s : State) :
    (summarised s).table = s.table ∧ (summarised s).unknownChunks = unknownSummary s.table ∧
    (summarised s).config = s.config ∧ (summarised s).station = s.station ∧
    (summarised s).requests = s.requests ∧ (summarised s).requestTimer = s.requestTimer ∧
    (summarised s).answers = s.answers ∧ (summarised s).answerAttempts = s.answerAttempts ∧
    (summarised s).answerTimer = s.answerTimer ∧ (summarised s).committed = s.committed ∧
    (summarised s).needed = s.needed ∧ (summarised s).latches = s.latches ∧
    (summarised s).details = s.details := by
  and_intros <;> rfl

theorem reportStatus_lost {before : Table} {s : State} (h : lostChunks before s.table ≠ []) :
    reportStatus before s = waitFillLost
      (giveUnknownCount (catchUpLost (lostChunks before s.table) (summarised s))) := by
  unfold reportStatus
  exact if_pos h

theorem reportStatus_gained {before : Table} {s : State} (hl : lostChunks before s.table = [])
    (hg : anyGained before s.table = true) :
    reportStatus before s = waitFillGained (giveUnknownCount (catchUpGained (summarised s))) := by
  unfold reportStatus
  dsimp only
  rw [if_neg (not_not.2 hl), if_pos hg]
  rfl

theorem reportStatus_quiet {before : Table} {s : State} (hl : lostChunks before s.table = [])
    (hg : anyGained before s.table = false) : reportStatus before s = summarised s := by
  unfold reportStatus
  dsimp only
  rw [if_neg (not_not.2 hl), if_neg (by simp [hg])]
  rfl

/-- Lost chunks are those of a cell KNOWN before and UNKNOWN after (R4). -/
theorem lostChunks_ne_nil (a b : Table) :
    lostChunks a b ≠ [] ↔ ∃ i, (cellAt a i).known = true ∧ (cellAt b i).known = false := by
  rw [ne_eq, lostChunks_eq_nil]
  simp

/-! ### Chunks wanted on a condition (R97, R103, R118) -/

/-- An entry of the list after an addition: the chunk's entry before, or a new one. -/
theorem mem_withWanted (l : List Request) (chunks : List Chunk) (r : Request) :
    r ∈ withWanted l chunks ↔ findRequest l r.chunk = some r
      ∨ (findRequest l r.chunk = none ∧ r.chunk ∈ chunks ∧ r = newRequest r.chunk) := by
  have hfind : ∀ c q, findRequest l c = some q → q.chunk = c := fun c q h => by
    simpa using List.find?_some h
  unfold withWanted
  rw [List.mem_filterMap]
  constructor
  · rintro ⟨c, _, hr⟩
    cases hf : findRequest l c with
    | some q =>
      simp only [hf, Option.some.injEq] at hr
      subst hr
      exact Or.inl (by rw [hfind c q hf, hf])
    | none =>
      simp only [hf, List.contains_iff_mem, Option.ite_none_right_eq_some, Option.some.injEq] at hr
      obtain ⟨hm, rfl⟩ := hr
      exact Or.inr ⟨hf, hm, rfl⟩
  · rintro (h | ⟨hf, hm, hr⟩)
    · exact ⟨r.chunk, mem_allChunks _, by rw [h]⟩
    · refine ⟨r.chunk, mem_allChunks _, ?_⟩
      rw [hf]
      simpa [hm] using hr.symm

/-- Chunks added to a request list when a condition holds. -/
def wantIf (c : Bool) (chunks : List Chunk) (l : List Request) : List Request :=
  if c then withWanted l chunks else l

/-- The request slot's timer after that addition (R72). -/
def timerIf (c : Bool) (chunks : List Chunk) (l : List Request) (x : Option RequestTimer) :
    Option RequestTimer :=
  if c then x.filter (fun t => isWanted (withWanted l chunks) t.chunk) else x

theorem wantIf_spec {l : List Request} (h : RequestsOrdered l) (c : Bool) (chunks : List Chunk) :
    WantedAdded (if c then chunks else []) l (wantIf c chunks l) := by
  cases c with
  | true => exact withWanted_spec h chunks
  | false => exact ⟨h, fun r => by simp [wantIf]⟩

theorem WantedAdded.ordered {chunks : List Chunk} {a b : List Request} (h : WantedAdded chunks a b) :
    RequestsOrdered b := h.1

theorem WantedAdded.trans {xs ys : List Chunk} {a b c : List Request} (h1 : WantedAdded xs a b)
    (h2 : WantedAdded ys b c) : WantedAdded (xs ++ ys) a c := by
  refine ⟨h2.1, fun r => ?_⟩
  rw [h2.2, h1.2]
  constructor
  · rintro ((h | ⟨hr, hx, hn⟩) | ⟨hr, hy, hn⟩)
    · exact Or.inl h
    · exact Or.inr ⟨hr, List.mem_append_left _ hx, hn⟩
    · exact Or.inr ⟨hr, List.mem_append_right _ hy, fun q hq => hn q ((h1.2 q).2 (Or.inl hq))⟩
  · rintro (h | ⟨hr, hxy, hn⟩)
    · exact Or.inl (Or.inl h)
    · by_cases hx : r.chunk ∈ xs
      · exact Or.inl (Or.inr ⟨hr, hx, hn⟩)
      · refine Or.inr ⟨hr, (List.mem_append.1 hxy).resolve_left hx, fun q hq hc => ?_⟩
        rcases (h1.2 q).1 hq with hq | ⟨_, hq, _⟩
        · exact hn q hq hc
        · exact hx (hc ▸ hq)

/-- Does a list hold an entry of a chunk? -/
def Listed (l : List Request) (c : Chunk) : Prop := ∃ r ∈ l, r.chunk = c

theorem listed_of_isWanted {l : List Request} {c : Chunk} (h : isWanted l c = true) : Listed l c := by
  obtain ⟨r, hr, hc, _⟩ := (isWanted_iff l c).1 h
  exact ⟨r, hr, hc⟩

theorem findRequest_of_listed {l : List Request} {c : Chunk} (h : Listed l c) :
    ∃ r, findRequest l c = some r ∧ r ∈ l ∧ r.chunk = c := by
  obtain ⟨r, hr⟩ : ∃ r, findRequest l c = some r := by
    rw [← Option.ne_none_iff_exists', ne_eq, findRequest_eq_none]
    obtain ⟨q, hq, hc⟩ := h
    exact fun hn => hn q hq hc
  exact ⟨r, hr, List.mem_of_find?_eq_some hr, by simpa using List.find?_some hr⟩

theorem Listed.wantIf {l : List Request} {d : Chunk} (h : Listed l d) (c : Bool)
    (chunks : List Chunk) : Listed (wantIf c chunks l) d := by
  cases c with
  | false => exact h
  | true =>
    obtain ⟨r, hf, _, hc⟩ := findRequest_of_listed h
    exact ⟨r, (mem_withWanted l chunks r).2 (Or.inl (by rw [hc, hf])), hc⟩

/-- An addition makes no listed chunk WANTED. -/
theorem isWanted_of_wantIf {l : List Request} {d : Chunk} (h : Listed l d) {c : Bool}
    {chunks : List Chunk} (hw : isWanted (wantIf c chunks l) d = true) : isWanted l d = true := by
  cases c with
  | false => exact hw
  | true =>
    obtain ⟨r, hr, rfl, hs⟩ := (isWanted_iff _ _).1 hw
    obtain ⟨q, hf, hq, _⟩ := findRequest_of_listed h
    rcases (mem_withWanted l chunks r).1 hr with hr | ⟨hn, _⟩
    · exact (isWanted_iff _ _).2 ⟨r, List.mem_of_find?_eq_some hr, rfl, hs⟩
    · rw [hn] at hf; cases hf

/-- The timer stays exactly when its chunk's entry is WANTED after the addition. -/
theorem timerIf_eq_some {l : List Request} {x : Option RequestTimer} {t : RequestTimer}
    (h : x = some t → isWanted l t.chunk = true) (c : Bool) (chunks : List Chunk) :
    timerIf c chunks l x = some t ↔ x = some t ∧ isWanted (wantIf c chunks l) t.chunk = true := by
  cases c with
  | false => simpa [timerIf, wantIf] using h
  | true => simp [timerIf, wantIf, Option.filter_eq_some_iff]

/-! ### The Catch-up Unit on a report (R97) -/

/-- Does the station ask for the chunks of lost cells (R97, R118)? -/
def autoWants (s : State) : Bool := isAttached s.station && s.config.autoFill && !s.config.quiet

theorem autoWant_requestTimer (l : List Chunk) (s : State) :
    (autoWant l s).requestTimer
      = timerIf (s.config.autoFill && !s.config.quiet) l s.requests s.requestTimer := by
  unfold autoWant timerIf
  split <;> simp [addWanted]

theorem catchUpLost_requests (l : List Chunk) (s : State) :
    (catchUpLost l s).requests = wantIf (autoWants s) l s.requests
    ∧ (catchUpLost l s).requestTimer = timerIf (autoWants s) l s.requests s.requestTimer := by
  unfold catchUpLost autoWants
  cases hs : s.station with
  | inStep => simp [autoWant_requestTimer, isAttached, wantIf]
  | catchingUp => simp [autoWant_requestTimer, isAttached, wantIf]
  | offline => simp [isAttached, wantIf, timerIf]
  | faulted => simp [isAttached, wantIf, timerIf]

theorem catchUpLost_answers (l : List Chunk) (s : State) :
    (s.station = .inStep → (catchUpLost l s).answers = [])
    ∧ (s.station ≠ .inStep → (catchUpLost l s).answers = s.answers)
    ∧ (s.station = .inStep ∧ s.answers ≠ [] →
        (catchUpLost l s).answerAttempts = 0 ∧ (catchUpLost l s).answerTimer = none)
    ∧ (¬ (s.station = .inStep ∧ s.answers ≠ []) →
        (catchUpLost l s).answerAttempts = s.answerAttempts
          ∧ (catchUpLost l s).answerTimer = s.answerTimer) := by
  unfold catchUpLost
  cases hs : s.station with
  | inStep =>
    cases ha : s.answers with
    | nil => simp
    | cons c cs => simp
  | catchingUp => simp
  | offline => simp
  | faulted => simp

theorem catchUpLost_causes (l : List Chunk) (s : State) :
    (catchUpLost l s).latches
      = (if s.station = .inStep then causeSet s.latches .notInStep true else s.latches)
    ∧ (catchUpLost l s).details
      = (if s.station = .inStep then
          causeSet s.details .notInStep (BitVec.ofNat 8 s.unknownChunks.length)
        else s.details) := by
  unfold catchUpLost
  cases hs : s.station <;> simp

theorem catchUpGained_requests (s : State) :
    (s.station = .catchingUp →
      (catchUpGained s).requests = s.requests.filter (fun r => s.unknownChunks.contains r.chunk)
      ∧ (catchUpGained s).requestTimer
        = s.requestTimer.filter fun t => isWanted (catchUpGained s).requests t.chunk)
    ∧ (s.station ≠ .catchingUp →
      (catchUpGained s).requests = s.requests ∧ (catchUpGained s).requestTimer = s.requestTimer) := by
  unfold catchUpGained
  cases hs : s.station with
  | catchingUp => dsimp only; split <;> simp
  | inStep => simp
  | offline => simp
  | faulted => simp

theorem catchUpGained_causes (s : State) :
    (catchUpGained s).latches
      = (if s.station = .catchingUp ∧ s.unknownChunks = [] then causeSet s.latches .inStep true
        else s.latches)
    ∧ (catchUpGained s).details
      = (if s.station = .catchingUp ∧ s.unknownChunks = [] then causeSet s.details .inStep 0
        else s.details) := by
  unfold catchUpGained
  cases hs : s.station with
  | catchingUp => dsimp only; split <;> simp_all
  | inStep => simp
  | offline => simp
  | faulted => simp

/-! ### A group that waits for fill (R125) -/

/-- Does a group wait for fill? -/
def Waits (s : State) : Prop := ∃ g, s.committed = some g ∧ g.state = .waitFill

theorem waitFillLost_waiting {s : State} {g : CommittedGroup} (hg : s.committed = some g)
    (hw : g.state = .waitFill) :
    waitFillLost s = addWanted (neededChunks s.table g.entries)
      { s with needed := neededChunks s.table g.entries } := by
  unfold waitFillLost
  rw [hg]
  exact if_pos hw

theorem waitFillGained_waiting {s : State} {g : CommittedGroup} (hg : s.committed = some g)
    (hw : g.state = .waitFill) :
    waitFillGained s = { s with
      needed := neededChunks s.table g.entries
      committed := some
        (if neededChunks s.table g.entries = [] then { g with state := .queued } else g) } := by
  unfold waitFillGained
  rw [hg]
  dsimp only
  rw [if_pos hw]
  split
  · next h => simp [setGroupState, h]
  · rw [← hg]

theorem waitFill_not_waiting {s : State} (h : ¬ Waits s) :
    waitFillLost s = s ∧ waitFillGained s = s := by
  unfold waitFillLost waitFillGained
  cases hg : s.committed with
  | none => exact ⟨rfl, rfl⟩
  | some g =>
    have hw : g.state ≠ .waitFill := fun hw => h ⟨g, hg, hw⟩
    exact ⟨if_neg hw, if_neg hw⟩

/-! ### The report, field by field -/

/-- The chunks that a report of a loss wants for a group that waits (R125). -/
theorem reportLost_requests {before : Table} {s : State} (h : lostChunks before s.table ≠ []) :
    ∃ (b : Bool) (needed : List Chunk),
      (b = true ↔ Waits s)
      ∧ (∀ g, s.committed = some g → g.state = .waitFill → needed = neededChunks s.table g.entries)
      ∧ (reportStatus before s).requests
        = wantIf b needed (wantIf (autoWants s) (lostChunks before s.table) s.requests)
      ∧ (reportStatus before s).requestTimer
        = timerIf b needed (wantIf (autoWants s) (lostChunks before s.table) s.requests)
            (timerIf (autoWants s) (lostChunks before s.table) s.requests s.requestTimer) := by
  have hreq : (catchUpLost (lostChunks before s.table) (summarised s)).requests
      = wantIf (autoWants s) (lostChunks before s.table) s.requests := (catchUpLost_requests _ _).1
  have htimer : (catchUpLost (lostChunks before s.table) (summarised s)).requestTimer
      = timerIf (autoWants s) (lostChunks before s.table) s.requests s.requestTimer :=
    (catchUpLost_requests _ _).2
  have hcom : (giveUnknownCount
      (catchUpLost (lostChunks before s.table) (summarised s))).committed = s.committed := by
    simp
  have htab : (giveUnknownCount
      (catchUpLost (lostChunks before s.table) (summarised s))).table = s.table := by
    simp
  rw [reportStatus_lost h, ← hreq, ← htimer]
  by_cases hw : Waits s
  · obtain ⟨g, hg, hst⟩ := hw
    refine ⟨true, neededChunks s.table g.entries, by simp [Waits, hg, hst], fun g' hg' _ => ?_, ?_⟩
    · rw [hg] at hg'; cases hg'; rfl
    · rw [waitFillLost_waiting (hcom.trans hg) hst, htab]
      exact ⟨rfl, rfl⟩
  · refine ⟨false, [], by simpa using hw, fun g hg hst => absurd ⟨g, hg, hst⟩ hw, ?_⟩
    rw [(waitFill_not_waiting (by simpa only [Waits, hcom] using hw)).1]
    exact ⟨rfl, rfl⟩

/-- The request list and its timer when no cell was lost (R97). -/
theorem reportKept_requests {before : Table} {s : State} (h : lostChunks before s.table = []) :
    (anyGained before s.table = true → s.station = .catchingUp →
      (reportStatus before s).requests
        = s.requests.filter (fun r => (unknownSummary s.table).contains r.chunk)
      ∧ (reportStatus before s).requestTimer
        = s.requestTimer.filter fun t => isWanted (reportStatus before s).requests t.chunk)
    ∧ (anyGained before s.table = false ∨ s.station ≠ .catchingUp →
      (reportStatus before s).requests = s.requests
        ∧ (reportStatus before s).requestTimer = s.requestTimer) := by
  obtain ⟨hcatch, hother⟩ := catchUpGained_requests (summarised s)
  cases hg : anyGained before s.table with
  | false => rw [reportStatus_quiet h hg]; simp
  | true =>
    rw [reportStatus_gained h hg]
    refine ⟨fun _ hs => ?_, fun hs => ?_⟩
    · simpa using hcatch hs
    · simpa using hother (hs.resolve_left (by simp))

/-- What a report gives a group that waits, and its slot (R125). -/
theorem report_waiting {before : Table} {s : State} {g : CommittedGroup} (hg : s.committed = some g)
    (hw : g.state = .waitFill)
    (h : lostChunks before s.table ≠ [] ∨ anyGained before s.table = true) :
    (reportStatus before s).needed = neededChunks s.table g.entries
    ∧ (reportStatus before s).committed = some
        (if lostChunks before s.table = [] ∧ neededChunks s.table g.entries = [] then
          { g with state := .queued }
        else g) := by
  by_cases hl : lostChunks before s.table = []
  · rw [reportStatus_gained hl (h.resolve_left (not_not.2 hl)),
      waitFillGained_waiting (g := g) (by simpa using hg) hw]
    simp [hl]
  · rw [reportStatus_lost hl, waitFillLost_waiting (g := g) (by simpa using hg) hw]
    simp [hl, hg]

theorem report_not_waiting {before : Table} {s : State} (h : ¬ Waits s) :
    (reportStatus before s).committed = s.committed ∧ (reportStatus before s).needed = s.needed := by
  by_cases hl : lostChunks before s.table = []
  · cases hg : anyGained before s.table with
    | false => rw [reportStatus_quiet hl hg]; exact ⟨rfl, rfl⟩
    | true =>
      rw [reportStatus_gained hl hg, (waitFill_not_waiting (by simpa [Waits] using h)).2]
      simp
  · rw [reportStatus_lost hl, (waitFill_not_waiting (by simpa [Waits] using h)).1]
    simp

/-- What a report does to the answer list and its slot (R97, R112). -/
theorem report_answers (before : Table) (s : State) :
    (lostChunks before s.table ≠ [] → s.station = .inStep → (reportStatus before s).answers = [])
    ∧ (lostChunks before s.table = [] ∨ s.station ≠ .inStep →
        (reportStatus before s).answers = s.answers)
    ∧ (lostChunks before s.table ≠ [] ∧ s.station = .inStep ∧ s.answers ≠ [] →
        (reportStatus before s).answerAttempts = 0 ∧ (reportStatus before s).answerTimer = none)
    ∧ (¬ (lostChunks before s.table ≠ [] ∧ s.station = .inStep ∧ s.answers ≠ []) →
        (reportStatus before s).answerAttempts = s.answerAttempts
          ∧ (reportStatus before s).answerTimer = s.answerTimer) := by
  by_cases hl : lostChunks before s.table = []
  · cases hg : anyGained before s.table with
    | false => rw [reportStatus_quiet hl hg]; simp [hl]
    | true => rw [reportStatus_gained hl hg]; simp [hl]
  · obtain ⟨h1, h2, h3, h4⟩ := catchUpLost_answers (lostChunks before s.table) (summarised s)
    rw [reportStatus_lost hl]
    refine ⟨fun _ hs => ?_, fun hs => ?_, fun hs => ?_, fun hs => ?_⟩
    · simpa using h1 hs
    · simpa using h2 (hs.resolve_left hl)
    · simpa using h3 hs.2
    · simpa using h4 fun hs' => hs ⟨hl, hs'⟩

/-- What a report does to the causes (R95, R97, R152). -/
theorem report_causes (before : Table) (s : State) :
    (reportStatus before s).latches
      = (if lostChunks before s.table ≠ [] ∧ s.station = .inStep then
          causeSet s.latches .notInStep true
        else if lostChunks before s.table = [] ∧ anyGained before s.table = true
            ∧ s.station = .catchingUp ∧ unknownSummary s.table = [] then
          causeSet s.latches .inStep true
        else s.latches)
    ∧ (reportStatus before s).details
      = (if lostChunks before s.table ≠ [] then
          causeSet s.details .notInStep (BitVec.ofNat 8 (unknownSummary s.table).length)
        else if anyGained before s.table = true then
          causeSet
            (if s.station = .catchingUp ∧ unknownSummary s.table = [] then
              causeSet s.details .inStep 0
            else s.details)
            .notInStep (BitVec.ofNat 8 (unknownSummary s.table).length)
        else s.details) := by
  by_cases hl : lostChunks before s.table = []
  · cases hg : anyGained before s.table with
    | false => rw [reportStatus_quiet hl hg]; simp [hl]
    | true =>
      obtain ⟨h1, h2⟩ := catchUpGained_causes (summarised s)
      rw [reportStatus_gained hl hg]
      simp [hl, h1, h2]
  · obtain ⟨h1, h2⟩ := catchUpLost_causes (lostChunks before s.table) (summarised s)
    rw [reportStatus_lost hl]
    simp only [waitFillLost_fields, giveUnknownCount_fields, h1, h2]
    by_cases hs : s.station = .inStep <;> simp [hl, hs, causeSet]

end Sys2Proof.Machine
end

section
/-!
PROOF. The status report of the end of a grant, as one statement (R4, R5, R72, R95, R97, R112, R124, R125,
R152): each clause from the report's account of its field.
-/
namespace Sys2Proof.Machine

/-- The fields that a report can change, and no other, tell its state from the state before. -/
theorem reportStatus_frame (before : Table) (s : State) :
    reportStatus before s = { s with
        unknownChunks := (reportStatus before s).unknownChunks
        station := (reportStatus before s).station, requests := (reportStatus before s).requests
        requestTimer := (reportStatus before s).requestTimer
        answers := (reportStatus before s).answers
        answerAttempts := (reportStatus before s).answerAttempts
        answerTimer := (reportStatus before s).answerTimer
        committed := (reportStatus before s).committed, needed := (reportStatus before s).needed
        latches := (reportStatus before s).latches, details := (reportStatus before s).details
        attn := (reportStatus before s).attn } := by
  have h := reportStatus_fields before s
  revert h
  generalize reportStatus before s = t
  intro h
  cases t
  simp only at h
  simp only [h]

/-- The station after a report (R97), with the summary as the cells. -/
theorem reportedStation_lost {a b : Table} (h : lostChunks a b ≠ []) (st : StationState) :
    reportedStation a b st = if st = .inStep then .catchingUp else st := if_pos h

theorem reportedStation_kept {a b : Table} (h : lostChunks a b = []) (st : StationState) :
    reportedStation a b st
      = if anyGained a b ∧ st = .catchingUp ∧ unknownSummary b = [] then .inStep else st :=
  if_neg (not_not.2 h)

theorem reportedStation_offLine (a b : Table) {st : StationState}
    (h : st = .offline ∨ st = .faulted) : reportedStation a b st = st := by
  unfold reportedStation
  rcases h with rfl | rfl <;> simp

/-- Chunks wanted by a report of a loss (R97, R125). -/
theorem report_added {before : Table} {s : State} (h : lostChunks before s.table ≠ [])
    (ho : RequestsOrdered s.requests) :
    ∃ added : List Chunk, WantedAdded added s.requests (reportStatus before s).requests
      ∧ ∀ c, c ∈ added ↔ (autoWants s = true ∧ c ∈ lostChunks before s.table)
          ∨ ∃ g, s.committed = some g ∧ g.state = .waitFill ∧ c ∈ neededChunks s.table g.entries := by
  obtain ⟨b, needed, hb, hn, hreq, _⟩ := reportLost_requests h
  have h1 := wantIf_spec ho (autoWants s) (lostChunks before s.table)
  refine ⟨_, hreq ▸ h1.trans (wantIf_spec h1.ordered b needed), fun c => ?_⟩
  rw [List.mem_append]
  refine or_congr (by cases autoWants s <;> simp) ?_
  constructor
  · intro hc
    cases hbv : b with
    | false => rw [hbv] at hc; cases hc
    | true =>
      obtain ⟨g, hg, hw⟩ := hb.1 hbv
      rw [hbv, if_pos rfl, hn g hg hw] at hc
      exact ⟨g, hg, hw, hc⟩
  · rintro ⟨g, hg, hw, hc⟩
    rw [hb.2 ⟨g, hg, hw⟩, if_pos rfl, hn g hg hw]
    exact hc

/-- The request slot's timer after a report: it stays exactly when its chunk's entry is WANTED still. -/
theorem report_requestTimer {before : Table} {s : State} (ht : RequestTimerFits s)
    (x : RequestTimer) :
    (reportStatus before s).requestTimer = some x ↔ s.requestTimer = some x
      ∧ isWanted (reportStatus before s).requests x.chunk = true := by
  have hwant : s.requestTimer = some x → isWanted s.requests x.chunk = true :=
    fun hx => (isWanted_iff _ _).2 (ht x hx)
  by_cases hl : lostChunks before s.table = []
  · obtain ⟨hcatch, hother⟩ := reportKept_requests hl
    by_cases hc : anyGained before s.table = true ∧ s.station = .catchingUp
    · rw [(hcatch hc.1 hc.2).2, Option.filter_eq_some_iff]
    · have hk := hother (by rwa [not_and_or, Bool.not_eq_true] at hc)
      rw [hk.1, hk.2]
      exact ⟨fun hx => ⟨hx, hwant hx⟩, And.left⟩
  · obtain ⟨b, needed, _, _, hreq, htimer⟩ := reportLost_requests hl
    have hfirst := timerIf_eq_some hwant (autoWants s) (lostChunks before s.table)
    rw [hreq, htimer, timerIf_eq_some (fun hx => (hfirst.1 hx).2), hfirst]
    refine ⟨fun hx => ⟨hx.1.1, hx.2⟩, fun hx => ⟨⟨hx.1, ?_⟩, hx.2⟩⟩
    exact isWanted_of_wantIf ((listed_of_isWanted (hwant hx.1)).wantIf _ _) hx.2

theorem causeGet_causeSet {α : Type} (p : PerCause α) (c d : Cause) (v : α) :
    causeGet (causeSet p c v) d = if d = c then v else causeGet p d := by
  cases c <;> cases d <;> rfl

theorem autoWants_iff (s : State) : autoWants s = true ↔
    (s.station = .inStep ∨ s.station = .catchingUp) ∧ s.config.autoFill = true
      ∧ s.config.quiet = false := by
  unfold autoWants
  cases s.station <;> simp [isAttached]

/-- Any report of a change counts the chunks UNKNOWN in NOT-IN-STEP's detail (R97, R152). -/
theorem report_notInStep_detail {before : Table} {s : State}
    (h : lostChunks before s.table ≠ [] ∨ anyGained before s.table = true) :
    (reportStatus before s).details.notInStep = BitVec.ofNat 8 (unknownSummary s.table).length := by
  rw [(report_causes before s).2]
  by_cases hl : lostChunks before s.table = []
  · simp [hl, h.resolve_left (not_not.2 hl), causeSet]
  · simp [hl, causeSet]

/-- The chunks that a report of a loss wants, as the cells and the group name them (R97, R125). -/
theorem report_added_named {before : Table} {s : State} (hl : lostChunks before s.table ≠ [])
    (ho : RequestsOrdered s.requests) :
    ∃ added : List Chunk, WantedAdded added s.requests (reportStatus before s).requests
      ∧ ∀ c, c ∈ added ↔
          ((s.station = .inStep ∨ s.station = .catchingUp) ∧ s.config.autoFill = true
            ∧ s.config.quiet = false
            ∧ ∃ i, chunkOfCell i = c ∧ (cellAt before i).known = true
                ∧ (cellAt s.table i).known = false)
          ∨ ∃ g e i, s.committed = some g ∧ g.state = .waitFill ∧ e ∈ g.entries ∧ Names e i
              ∧ chunkOfCell i = c ∧ (cellAt s.table i).known = false := by
  obtain ⟨added, hadd, hmem⟩ := report_added hl ho
  refine ⟨added, hadd, fun c => (hmem c).trans (or_congr ?_ ?_)⟩
  · rw [autoWants_iff, mem_lostChunks, and_assoc, and_assoc]
  · simp only [mem_neededChunks]
    constructor
    · rintro ⟨g, hg, hw, e, he, i, hi⟩; exact ⟨g, e, i, hg, hw, he, hi⟩
    · rintro ⟨g, e, i, hg, hw, he, hi⟩; exact ⟨g, hg, hw, e, he, i, hi⟩

/-- The last gain of a station that catches up puts it IN-STEP and latches that (R97). -/
theorem report_caughtUp {before : Table} {s : State} (hl : lostChunks before s.table = [])
    (hg : anyGained before s.table = true) (hs : s.station = .catchingUp)
    (hnil : unknownSummary s.table = []) :
    (reportStatus before s).station = .inStep ∧ (reportStatus before s).latches.inStep = true
      ∧ (reportStatus before s).details.inStep = 0 := by
  obtain ⟨hlatch, hdetail⟩ := report_causes before s
  refine ⟨?_, ?_, ?_⟩
  · rw [reportStatus_station, reportedStation_kept hl, if_pos ⟨hg, hs, hnil⟩]
  · rw [hlatch, if_neg (fun h => h.1 hl), if_pos ⟨hl, hg, hs, hnil⟩]; rfl
  · rw [hdetail, if_neg (not_not.2 hl), if_pos hg, if_pos ⟨hs, hnil⟩]; rfl

/-- A report of a change, to a group that waits (R125). -/
theorem report_waiting_named {before : Table} {s : State} {g : CommittedGroup}
    (hg : s.committed = some g) (hw : g.state = .waitFill)
    (h : lostChunks before s.table ≠ [] ∨ anyGained before s.table = true) :
    (reportStatus before s).needed.Pairwise (· < ·)
    ∧ (∀ c, c ∈ (reportStatus before s).needed ↔ ∃ e ∈ g.entries, ∃ i, Names e i
        ∧ chunkOfCell i = c ∧ (cellAt s.table i).known = false)
    ∧ (lostChunks before s.table ≠ [] ∨ (reportStatus before s).needed ≠ [] →
        (reportStatus before s).committed = some g)
    ∧ (¬ lostChunks before s.table ≠ [] → (reportStatus before s).needed = [] →
        (reportStatus before s).committed = some { g with state := .queued }) := by
  obtain ⟨hneed, hcom⟩ := report_waiting hg hw h
  rw [hneed, hcom]
  refine ⟨neededChunks_sorted _ _, fun c => mem_neededChunks _ _ c, fun h => ?_, fun hl hn => ?_⟩
  · rw [if_neg]
    rintro ⟨h1, h2⟩
    exact h.elim (fun hl => hl h1) (fun hn => hn h2)
  · rw [if_pos ⟨not_not.1 hl, hn⟩]

/-- A report that puts no station IN-STEP leaves that cause alone (R97). -/
theorem report_inStep_kept {before : Table} {s : State}
    (hs : s.station ≠ .catchingUp ∨ (reportStatus before s).station ≠ .inStep) :
    (reportStatus before s).latches.inStep = s.latches.inStep
      ∧ (reportStatus before s).details.inStep = s.details.inStep := by
  obtain ⟨hlatch, hdetail⟩ := report_causes before s
  have hstay : ¬ (lostChunks before s.table = [] ∧ anyGained before s.table = true
      ∧ s.station = .catchingUp ∧ unknownSummary s.table = []) := by
    rintro ⟨hl, hg, hc, hnil⟩
    exact hs.elim (fun hs => hs hc) fun hs => hs (report_caughtUp hl hg hc hnil).1
  rw [hlatch, hdetail, if_neg hstay]
  refine ⟨by split_ifs <;> rfl, ?_⟩
  split_ifs with hl hg hc
  · rfl
  · exact absurd ⟨not_not.1 hl, hg, hc⟩ hstay
  · rfl
  · rfl

/-- Settles O37: a loss and a gain are told by the cells, and each clause is its field's account. -/
theorem statusReportMovesStation : Obligations.StatusReportMovesStation := by
  rintro before s t lost gained waits rfl hlost hgained hwaits
  rw [← lostChunks_ne_nil] at hlost
  rw [← anyGained_iff] at hgained
  obtain rfl : lost = (lostChunks before s.table ≠ []) := propext hlost
  obtain rfl : gained = (anyGained before s.table = true) := propext hgained
  obtain rfl : waits = Waits s := propext hwaits
  obtain ⟨hlatch, hdetail⟩ := report_causes before s
  obtain ⟨hans, hansKept, hcount, hcountKept⟩ := report_answers before s
  have hstation := reportStatus_station before s
  refine ⟨by simp, by simp, report_notInStep_detail, fun hoff => ?_,
    fun hl hs => ⟨?_, ?_, hans hl hs⟩, fun hl hs => ?_, fun hl hs => hansKept (Or.inr hs),
    report_added_named, fun hl hg hs => ⟨fun r => ?_, fun hall => ?_, fun hex => ?_⟩,
    fun hl hg hs => ⟨?_, ?_⟩, fun hl => hansKept (Or.inl (not_not.1 hl)),
    fun hlg g hg hw => report_waiting_named hg hw hlg, report_not_waiting, fun hl hg => ?_,
    reportStatus_frame before s, fun c h1 h2 => ?_, fun hn => ?_, report_inStep_kept, fun hp => ?_,
    fun ht x => ?_, hcount, hcountKept⟩
  · rw [hstation, reportedStation_offLine _ _ hoff]
  · rw [hstation, reportedStation_lost hl, if_pos hs]
  · rw [hlatch, if_pos ⟨hl, hs⟩]; rfl
  · rw [hstation, reportedStation_lost hl, hs]; rfl
  · rw [((reportKept_requests (not_not.1 hl)).1 hg hs).1]
    simp
  · exact report_caughtUp (not_not.1 hl) hg hs ((unknownSummary_eq_nil s.table).2 hall)
  · rw [hstation, reportedStation_kept (not_not.1 hl), if_neg, hs]
    rintro ⟨-, -, hnil⟩
    obtain ⟨i, hi⟩ := hex
    rw [(unknownSummary_eq_nil s.table).1 hnil i] at hi
    cases hi
  · rw [hstation, reportedStation_kept (not_not.1 hl), if_neg (fun h => hs h.2.1)]
  · exact ((reportKept_requests (not_not.1 hl)).2 (Or.inr hs)).1
  · exact reportStatus_quiet (not_not.1 hl) (by simpa using hg)
  · rw [hlatch, hdetail]
    constructor <;> split_ifs <;> simp [causeGet_causeSet, h1, h2]
  · rw [hlatch, if_neg hn]
    split_ifs <;> rfl
  · simpa [PinAgrees] using pinAgrees_reportStatus before hp
  · rw [report_requestTimer ht, isWanted_iff]

end Sys2Proof.Machine
end

section
/-!
PROOF. What the evaluation of a group and the other grants do to the statuses of the cells, and that they
leave every UNKNOWN cell zero (R2, R35 to R38, R113, R117).
-/
namespace Sys2Proof.Machine

/-! ### UNKNOWN cells are zero (R2) -/

/-- Every UNKNOWN cell of a replica holds value 0, owner NONE and seq 0 (R2). -/
def ZeroUnknown (t : Table) : Prop :=
  ∀ i, (cellAt t i).known = false → (cellAt t i).record = CellRecord.zero

theorem zeroUnknown_initial : ZeroUnknown Table.initial := fun i _ => by rw [cellAt_initial]; rfl

theorem unknownCell_known (c : Cell) : (unknownCell c).known = false := by
  unfold unknownCell
  cases h : c.known <;> simp [h]

theorem unknownCell_zero {c : Cell} (h : c.known = false → c.record = .zero) :
    (unknownCell c).record = .zero := by
  unfold unknownCell
  cases hk : c.known with
  | false => simpa using h hk
  | true => rfl

theorem zeroUnknown_clearAll {t : Table} (h : ZeroUnknown t) : ZeroUnknown (clearAll t) := by
  intro i _
  rw [cellAt_clearAll]
  exact unknownCell_zero (h i)

theorem zeroUnknown_seedAll (t : Table) : ZeroUnknown (seedAll t) := by
  intro i hi
  rw [cellAt_seedAll] at hi
  cases hi

theorem zeroUnknown_adoptChunk {t : Table} (h : ZeroUnknown t) (c : Chunk) (d : ChunkData) :
    ZeroUnknown (adoptChunk t c d) := by
  intro i
  rw [cellAt_adoptChunk]
  split
  · intro hi; cases hi
  · exact h i

/-- A table command changes no status and no record (R16 to R19). -/
theorem tableAfter_cell (op : TableOp) (t : Table) (i : Byte) :
    (cellAt (tableAfter op t) i).known = (cellAt t i).known
      ∧ (cellAt (tableAfter op t) i).record = (cellAt t i).record := by
  cases op with
  | read first count => exact ⟨rfl, rfl⟩
  | watch first count on =>
    simp only [tableAfter, cellAt_setWatch]
    split <;> exact ⟨rfl, rfl⟩
  | take => simp [tableAfter, cellAt_clearChanged]
  | peek => exact ⟨rfl, rfl⟩

theorem zeroUnknown_tableAfter {t : Table} (h : ZeroUnknown t) (op : TableOp) :
    ZeroUnknown (tableAfter op t) := by
  intro i hi
  obtain ⟨hk, hr⟩ := tableAfter_cell op t i
  rw [hr]
  exact h i (hk ▸ hi)

/-! ### One entry (R31, R35) -/

theorem makeUnknown_cell (t : Table) (i j : Byte) :
    ((cellAt (makeUnknown t i) j).known = true → (cellAt t j).known = true)
    ∧ (ZeroUnknown t → ZeroUnknown (makeUnknown t i)) := by
  rw [cellAt_makeUnknown]
  refine ⟨?_, fun h k => ?_⟩
  · split
    · intro hk; rw [unknownCell_known] at hk; cases hk
    · exact id
  · rw [cellAt_makeUnknown]
    split
    · next hki => intro _; exact unknownCell_zero (h i)
    · exact h k

/-- A write keeps every status. -/
theorem writeCell_known (t : Table) (i : Byte) (v : Value) (o : Owner) (j : Byte) :
    (cellAt (writeCell t i v o) j).known = (cellAt t j).known := by
  rw [cellAt_writeCell]
  split
  · next h => rw [h.1]
  · rfl

/-- A write touches its own cell alone. -/
theorem writeCell_record (t : Table) {i j : Byte} (v : Value) (o : Owner) (h : j ≠ i) :
    (cellAt (writeCell t i v o) j).record = (cellAt t j).record := by
  rw [cellAt_writeCell, if_neg (fun hc => h hc.1)]

/-- A write to a KNOWN cell leaves the UNKNOWN ones as they are. -/
theorem writeCell_unknown {t : Table} {i : Byte} (hi : (cellAt t i).known = true) (v : Value)
    (o : Owner) {j : Byte} (hj : (cellAt t j).known = false) :
    (cellAt (writeCell t i v o) j).record = (cellAt t j).record := by
  refine writeCell_record t v o ?_
  rintro rfl
  rw [hi] at hj
  cases hj

/-- An entry that ends PASSED or FAILED has a KNOWN target (R31 third step). -/
theorem target_known_of_outcome {t : Table} {sender : Station} {prev : Option EntryOutcome}
    {e : Entry} (h : decideOutcome t sender prev e = .passed ∨ decideOutcome t sender prev e = .failed) :
    (cellAt t e.cell).known = true := by
  unfold decideOutcome at h
  split_ifs at h with h1 h2 h3 <;> simp at h
  all_goals exact (namedKnown_iff t e).1 (by simpa using h3) e.cell (Or.inl rfl)

theorem entryEffect_passed (t : Table) (sender : Station) (e : Entry) :
    ∃ v o, entryEffect t sender e .passed = writeCell t e.cell v o := ⟨_, _, rfl⟩

/-- What a decided entry does to the replica: a write to its KNOWN target, a loss of it, or nothing. -/
theorem entryEffect_cases {t : Table} {sender : Station} {prev : Option EntryOutcome} {e : Entry}
    {o : EntryOutcome} (h : o = decideOutcome t sender prev e) :
    ((cellAt t e.cell).known = true ∧ ∃ v w, entryEffect t sender e o = writeCell t e.cell v w)
    ∨ entryEffect t sender e o = makeUnknown t e.cell ∨ entryEffect t sender e o = t := by
  cases o with
  | passed => exact Or.inl ⟨target_known_of_outcome (Or.inl h.symm), _, _, rfl⟩
  | failed => exact Or.inl ⟨target_known_of_outcome (Or.inr h.symm), _, _, rfl⟩
  | skipped => exact Or.inr (Or.inr rfl)
  | undetermined => exact Or.inr (Or.inl rfl)
  | notReached => exact Or.inr (Or.inr rfl)

/-- No cell becomes KNOWN from one replica to another. -/
def NoGain (a b : Table) : Prop := ∀ i, (cellAt b i).known = true → (cellAt a i).known = true

/-- No cell becomes UNKNOWN from one replica to another. -/
def NoLoss (a b : Table) : Prop := ∀ i, (cellAt a i).known = true → (cellAt b i).known = true

theorem NoGain.trans {a b c : Table} (h1 : NoGain a b) (h2 : NoGain b c) : NoGain a c :=
  fun i hi => h1 i (h2 i hi)

/-- A decided entry gains no cell and leaves the UNKNOWN ones zero. -/
theorem entryEffect_keeps {t : Table} {sender : Station} {prev : Option EntryOutcome} {e : Entry}
    {o : EntryOutcome} (h : o = decideOutcome t sender prev e) :
    NoGain t (entryEffect t sender e o)
      ∧ (ZeroUnknown t → ZeroUnknown (entryEffect t sender e o)) := by
  rcases entryEffect_cases h with ⟨hk, v, w, he⟩ | he | he
  · rw [he]
    refine ⟨fun i hi => by rwa [writeCell_known] at hi, fun hz i hi => ?_⟩
    rw [writeCell_known] at hi
    rw [writeCell_unknown hk v w hi]
    exact hz i hi
  · rw [he]
    exact ⟨fun i => (makeUnknown_cell t e.cell i).1, (makeUnknown_cell t e.cell e.cell).2⟩
  · rw [he]
    exact ⟨fun _ => id, id⟩

/-! ### A group (R34 to R38) -/

theorem runEntries_keeps (sender : Station) (prev : Option EntryOutcome) (es : List Entry)
    (t : Table) :
    NoGain t (runEntries sender prev es t).1
      ∧ (ZeroUnknown t → ZeroUnknown (runEntries sender prev es t).1) := by
  induction es generalizing prev t with
  | nil => exact ⟨fun _ => id, id⟩
  | cons e es ih =>
    obtain ⟨hg, hz⟩ := entryEffect_keeps (t := t) (sender := sender) (prev := prev) (e := e) rfl
    obtain ⟨hg', hz'⟩ := ih (some (decideOutcome t sender prev e))
      (entryEffect t sender e (decideOutcome t sender prev e))
    exact ⟨hg.trans hg', fun h => hz' (hz h)⟩

/-- The working copy of a strict group keeps every status, and every record of an UNKNOWN cell (R36). -/
theorem runStrictEntries_copy (sender : Station) (prev : Option EntryOutcome) (es : List Entry)
    (t : Table) (i : Byte) :
    (cellAt (runStrictEntries sender prev es t).1 i).known = (cellAt t i).known
      ∧ ((cellAt t i).known = false →
        (cellAt (runStrictEntries sender prev es t).1 i).record = (cellAt t i).record) := by
  induction es generalizing prev t with
  | nil => exact ⟨rfl, fun _ => rfl⟩
  | cons e es ih =>
    simp only [runStrictEntries]
    split
    · next hp =>
      obtain ⟨v, o, hw⟩ := entryEffect_passed t sender e
      obtain ⟨hk, hr⟩ := ih (some .passed) (entryEffect t sender e .passed)
      rw [hw, writeCell_known] at hk hr
      rw [hw]
      exact ⟨hk, fun hu => (hr hu).trans
        (writeCell_unknown (target_known_of_outcome (Or.inl hp)) v o hu)⟩
    · exact ⟨rfl, fun _ => rfl⟩

theorem loseTargets_keeps (entries : List Entry) (t : Table) :
    NoGain t (loseTargets entries t) ∧ (ZeroUnknown t → ZeroUnknown (loseTargets entries t)) := by
  refine ⟨fun i hi => ?_, fun hz i => ?_⟩
  · rw [cellAt_loseTargets] at hi
    split at hi
    · rw [unknownCell_known] at hi; cases hi
    · exact hi
  · rw [cellAt_loseTargets]
    split
    · exact fun _ => unknownCell_zero (hz i)
    · exact hz i

/-- The replica after a strict group: the copy taken, the targets lost, or nothing (R36 to R38). -/
theorem runStrict_table (sender : Station) (entries : List Entry) (t : Table) :
    (runStrict sender entries t).table = takeCopy t (runStrictEntries sender none entries t).1
    ∨ (runStrict sender entries t).table = loseTargets entries t
    ∨ (runStrict sender entries t).table = t := by
  unfold runStrict
  rcases runStrictEntries_status sender none entries t with h | h | h <;> simp [h]

/-- A group item gains no cell and leaves the UNKNOWN ones zero (R2, R34). -/
theorem evaluateGroup_keeps (g : GroupItem) (t : Table) :
    NoGain t (evaluateGroup g t).table
      ∧ (ZeroUnknown t → ZeroUnknown (evaluateGroup g t).table) := by
  unfold evaluateGroup
  split
  · rcases runStrict_table g.sender g.entries t with h | h | h
    · rw [h]
      refine ⟨fun i hi => by rwa [cellAt_takeCopy] at hi, fun hz i hi => ?_⟩
      rw [cellAt_takeCopy] at hi ⊢
      exact ((runStrictEntries_copy g.sender none g.entries t i).2 hi).trans (hz i hi)
    · rw [h]; exact loseTargets_keeps _ _
    · rw [h]; exact ⟨fun _ => id, id⟩
  · exact runEntries_keeps g.sender none g.entries t

theorem noGain_clearAll (t : Table) : NoGain t (clearAll t) := by
  intro i hi
  rw [cellAt_clearAll, unknownCell_known] at hi
  cases hi

theorem noLoss_seedAll (t : Table) : NoLoss t (seedAll t) := by
  intro i _
  rw [cellAt_seedAll]
  rfl

theorem noLoss_adoptChunk (t : Table) (c : Chunk) (d : ChunkData) : NoLoss t (adoptChunk t c d) := by
  intro i hi
  rw [cellAt_adoptChunk]
  split
  · rfl
  · exact hi

/-! ### Every step -/

theorem command_unknownCellsZero {s x : State} (h : UnknownCellsZero s) (hx : Command s x) :
    UnknownCellsZero x := by
  cases hx with
  | reset => exact zeroUnknown_initial
  | _ => simpa [UnknownCellsZero] using h

theorem row_unknownCellsZero {s u : State} (h : UnknownCellsZero s) (hu : Row s u) :
    UnknownCellsZero u := by
  have hz : ∀ {v : State}, ZeroUnknown v.table → UnknownCellsZero v := fun hv => hv
  cases hu with
  | hardReset => exact zeroUnknown_initial
  | groupApply g => exact hz (by simpa using (evaluateGroup_keeps g s.table).2 h)
  | fdatApply c d => exact hz (by simpa using zeroUnknown_adoptChunk h c d)
  | seedApply => exact hz (by simpa using zeroUnknown_seedAll s.table)
  | stepLossClear => exact hz (by simpa using zeroUnknown_clearAll h)
  | teardown => exact hz (by simpa using zeroUnknown_clearAll h)
  | tableCommand op => exact hz (by simpa using zeroUnknown_tableAfter h op)
  | _ => simpa [UnknownCellsZero] using h

end Sys2Proof.Machine
end

section
/-!
PROOF. Station state and cells, and link, framing and own frame: what every command, row and grant keeps
of them (R12, R52, R62, R64, R95, R97, R160, Tables 4-1 and 6-1).
-/
namespace Sys2Proof.Machine

/-! ### Station state and cells (R95) -/

theorem unknownSummary_initial : unknownSummary Table.initial = allChunks := by
  refine List.filter_eq_self.2 fun c _ => ?_
  exact (chunkUnknown_iff _ _).2 ⟨BitVec.ofNat 8 (16 * c.val + 0), chunkOfCell_ofNat c 0 (by decide),
    by rw [cellAt_initial]; rfl⟩

/-- A part with every block at its reset values has its station and its cells in agreement. -/
theorem stationFollowsCells_of_initial {s : State} (ht : s.table = .initial)
    (hu : s.unknownChunks = allChunks) (hs : s.station = .offline) (hi : s.items = [])
    (hr : s.running = none) : StationFollowsCells s := by
  refine ⟨?_, fun h => ?_, fun h => ?_, fun h => ?_, fun _ _ i => ?_, fun h => ?_, fun _ => ?_⟩
  · rw [SummaryAgrees, hu, ht, unknownSummary_initial]
  · rw [hs] at h; cases h
  · rw [hs] at h; cases h
  · rw [hs] at h; cases h
  · rw [ht, cellAt_initial]; rfl
  · rw [hr] at h; cases h
  · simp [hi]

/-- The station after a report agrees with its cells when the one before did. -/
theorem reportedStation_inStep {a b : Table} {st : StationState}
    (h : st = .inStep → ∀ i, (cellAt a i).known = true) (hr : reportedStation a b st = .inStep) :
    ∀ i, (cellAt b i).known = true := by
  by_cases hl : lostChunks a b = []
  · rw [reportedStation_kept hl] at hr
    split_ifs at hr with hc
    · exact (unknownSummary_eq_nil b).1 hc.2.2
    · exact fun i => (lostChunks_eq_nil a b).1 hl i (h hr i)
  · rw [reportedStation_lost hl] at hr
    split_ifs at hr with hs
    exact absurd hr hs

theorem reportedStation_catchingUp {a b : Table} {st : StationState}
    (h : st = .catchingUp → ∃ i, (cellAt a i).known = false)
    (hr : reportedStation a b st = .catchingUp) : ∃ i, (cellAt b i).known = false := by
  by_cases hl : lostChunks a b = []
  · rw [reportedStation_kept hl] at hr
    split_ifs at hr with hc
    obtain ⟨i, hi⟩ := h hr
    by_contra hall
    simp only [not_exists, Bool.not_eq_false] at hall
    exact hc ⟨(anyGained_iff a b).2 ⟨i, hi, hall i⟩, hr, (unknownSummary_eq_nil b).2 hall⟩
  · obtain ⟨i, _, hi⟩ := (lostChunks_ne_nil a b).1 hl
    exact ⟨i, hi⟩

/-- A grant that ends with a report keeps the station and its cells in agreement. -/
theorem stationFollowsCells_report {s u : State} (h : StationFollowsCells s)
    (hsum : u.unknownChunks = unknownSummary u.table)
    (hst : u.station = reportedStation s.table u.table s.station)
    (htear : isAttached s.station = true → u.teardownPending = false)
    (hrun : u.running = none)
    (hoff : isAttached s.station = false → u.teardownPending = false →
      ∀ i, (cellAt u.table i).known = false)
    (hitems : isAttached s.station = false → u.items = []) : StationFollowsCells u := by
  obtain ⟨_, hin, hcatch, _, _, _, _⟩ := h
  have hatt : isAttached u.station = isAttached s.station := by rw [hst]; simp
  refine ⟨hsum, fun hs => ?_, fun hs => ?_, ?_, ?_, ?_, fun ho => ?_⟩
  · exact reportedStation_inStep hin (hst ▸ hs)
  · exact reportedStation_catchingUp hcatch (hst ▸ hs)
  · rw [hatt]; exact htear
  · rw [hatt]; exact hoff
  · rw [hrun]; intro hr; cases hr
  · rw [hatt] at ho
    simp [hitems ho]

/-- Off the line, no item is listed but under a running apply grant (R12). -/
theorem items_of_offLine {s : State} (h : StationFollowsCells s) (ho : isAttached s.station = false)
    (hr : s.running ≠ some .apply) : s.items = [] := by
  obtain ⟨_, _, _, _, _, _, hitems⟩ := h
  exact (hitems ho).2.1 hr

/-- The three apply grants: their item shows that no teardown has ended since (R12). -/
theorem stationFollowsCells_apply {s u : State} {item : Item} {rest : List Item}
    (h : StationFollowsCells s) (hi : s.items = item :: rest)
    (hsum : u.unknownChunks = unknownSummary u.table)
    (hst : u.station = reportedStation s.table u.table s.station)
    (htear : u.teardownPending = s.teardownPending) (hrun : u.running = none)
    (hitems : u.items = s.items.tail) : StationFollowsCells u := by
  obtain ⟨_, _, _, hatt, _, _, hoff⟩ := id h
  refine stationFollowsCells_report h hsum hst (fun ha => htear.trans (hatt ha)) hrun
    (fun ho ht => ?_) (fun ho => ?_)
  · have hnil := (hoff ho).2.2 (htear ▸ ht)
    rw [hi] at hnil
    cases hnil
  · have hlen := (hoff ho).1
    rw [hi] at hlen
    rw [hitems, hi]
    exact List.eq_nil_of_length_eq_zero (Nat.le_zero.1 (Nat.le_of_succ_le_succ hlen))

/-- A grant that changes no status and no station. -/
theorem stationFollowsCells_grantEnd {s u : State} (h : StationFollowsCells s)
    (hk : ∀ i, (cellAt u.table i).known = (cellAt s.table i).known)
    (hsum : u.unknownChunks = s.unknownChunks) (hst : u.station = s.station)
    (htear : u.teardownPending = s.teardownPending) (hrun : u.running = none)
    (hitems : u.items = s.items) (hr : s.running ≠ some .apply) : StationFollowsCells u := by
  obtain ⟨hs, hin, hcatch, hatt, hoff, _, hoi⟩ := id h
  refine ⟨?_, ?_, ?_, ?_, ?_, ?_, fun ho => ?_⟩
  · rw [SummaryAgrees, hsum, hs, unknownSummary_congr hk]
  · simpa only [hst, hk] using hin
  · simpa only [hst, hk] using hcatch
  · simpa only [hst, htear] using hatt
  · simpa only [hst, htear, hk] using hoff
  · rw [hrun]; intro hc; cases hc
  · rw [hst] at ho
    simp [hitems, items_of_offLine h ho hr]

/-- A station that leaves the line (R12, R101). -/
theorem stationFollowsCells_leaveLine {s u : State} (h : StationFollowsCells s)
    (htab : u.table = s.table) (hsum : u.unknownChunks = s.unknownChunks)
    (hst : u.station = .offline ∨ u.station = .faulted) (htear : u.teardownPending = true)
    (hrun : u.running = s.running) (hitems : u.items = itemsUnderGrant s) :
    StationFollowsCells u := by
  obtain ⟨hs, _, _, _, _, _, _⟩ := h
  refine ⟨?_, fun h => ?_, fun h => ?_, fun h => ?_, fun _ h => ?_, fun _ => htear, fun _ => ?_⟩
  · rw [SummaryAgrees, hsum, htab]; exact hs
  · rcases hst with hst | hst <;> rw [hst] at h <;> cases h
  · rcases hst with hst | hst <;> rw [hst] at h <;> cases h
  · rcases hst with hst | hst <;> rw [hst] at h <;> cases h
  · rw [htear] at h; cases h
  · rw [hitems, hrun, htear]
    unfold itemsUnderGrant
    split
    · next hr => exact ⟨by simp, fun hn => absurd hr hn, fun hc => by cases hc⟩
    · simp

/-- A station off the line whose teardown has ended attaches as CATCHING-UP (R98). -/
theorem stationFollowsCells_attach {s : State} (h : StationFollowsCells s)
    (ho : isAttached s.station = false) (ht : s.teardownPending = false) :
    StationFollowsCells (attach s) := by
  obtain ⟨hs, _, _, _, hoff, hrun, _⟩ := h
  refine ⟨by simpa [SummaryAgrees] using hs, fun h => ?_, fun _ => ⟨0, ?_⟩, fun _ => ?_,
    fun h => ?_, ?_, fun h => ?_⟩
  · simp at h
  · simpa using hoff ho ht 0
  · simpa using ht
  · simp [isAttached] at h
  · simpa using hrun
  · simp [isAttached] at h

/-- An attached station keeps its agreement whatever the apply list is (R12). -/
theorem stationFollowsCells_attached {s u : State} (h : StationFollowsCells s)
    (ha : isAttached s.station = true) (htab : u.table = s.table)
    (hsum : u.unknownChunks = s.unknownChunks) (hst : u.station = s.station)
    (htear : u.teardownPending = s.teardownPending) (hrun : u.running = s.running) :
    StationFollowsCells u := by
  obtain ⟨hs, hin, hcatch, hatt, hoff, hr, _⟩ := h
  refine ⟨by rw [SummaryAgrees, hsum, htab]; exact hs, ?_, ?_, ?_, ?_, ?_, fun ho => ?_⟩
  · rw [hst, htab]; exact hin
  · rw [hst, htab]; exact hcatch
  · rw [hst, htear]; exact hatt
  · rw [hst, htear, htab]; exact hoff
  · rw [hrun, htear]; exact hr
  · rw [hst, ha] at ho; cases ho

/-- The arbiter starts a grant on a claim that waits, or leaves what runs (R13). -/
theorem settle_running_cases (s : State) :
    (settle s).running = s.running
      ∨ (s.running = none ∧ ∃ g, nextGrant s = some g ∧ (settle s).running = some g) := by
  rw [settle_running]
  cases hr : s.running with
  | some g => exact Or.inl rfl
  | none =>
    cases hg : nextGrant s with
    | none => exact Or.inl (by simp)
    | some g => exact Or.inr ⟨rfl, g, rfl, by simp⟩

/-- The claims that the arbiter serves by a grant of each kind (Table 1-4). -/
theorem nextGrant_claim {s : State} {g : Grant} (h : nextGrant s = some g) :
    (g = .teardown → s.teardownPending = true)
    ∧ (g = .stepLossClear → s.pendingClear = some 0)
    ∧ (g = .apply → s.items ≠ [])
    ∧ (∀ c, g = .fdatRead c → s.fdatClaim = some c) := by
  unfold nextGrant at h
  split_ifs at h with h1 h2 h3
  · cases h; simp [h1]
  · cases h; simp [h2]
  · cases h; simp [h3]
  · split at h
    · next c hc => cases h; simpa using hc
    · next hc =>
      obtain ⟨p, hp, rfl⟩ := Option.map_eq_some_iff.1 h
      simp

theorem settle_stationFollowsCells {s : State} (h : StationFollowsCells s) :
    StationFollowsCells (settle s) := by
  rcases settle_running_cases s with hr | ⟨hn, g, hg, hr⟩
  · simpa [StationFollowsCells, SummaryAgrees, OffLineItems, hr] using h
  · obtain ⟨hs, hin, hcatch, hatt, hoff, _, hoi⟩ := id h
    refine ⟨by simpa [SummaryAgrees] using hs, by simpa using hin, by simpa using hcatch,
      by simpa using hatt, by simpa using hoff, fun ht => ?_, fun ho => ?_⟩
    · rw [hr] at ht
      simpa using (nextGrant_claim hg).1 (by simpa using ht)
    · have hnil := items_of_offLine h (by simpa using ho) (by rw [hn]; simp)
      simp [hnil]

theorem command_stationFollowsCells {s x : State} (h : StationFollowsCells s) (hx : Command s x) :
    StationFollowsCells x := by
  cases hx with
  | start hs ht => exact stationFollowsCells_attach h hs ht
  | leaveFaulted hs =>
    obtain ⟨hsum, _, _, _, hoff, hrun, hoi⟩ := h
    have ho : isAttached s.station = false := by rw [hs]; rfl
    exact ⟨hsum, fun h => (by simp at h), fun h => (by simp at h), fun h => (by simp [isAttached] at h),
      fun _ => hoff ho, hrun, fun _ => hoi ho⟩
  | detach hs =>
    exact stationFollowsCells_leaveLine h (by simp) (by simp) (by simp) (by simp) (by simp) (by simp)
  | reset => exact stationFollowsCells_of_initial rfl rfl rfl rfl rfl
  | _ => simpa [StationFollowsCells, SummaryAgrees, OffLineItems] using h

/-! ### Link, framing and own frame (R52, R62) -/

theorem LinkCoherent.attached {s : State} (h : LinkCoherent s) (hl : s.link ≠ .off) :
    isAttached s.station = true := by
  obtain ⟨hoff, _⟩ := h
  rw [← Bool.not_eq_false]
  exact fun ho => hl (hoff.2 ho)

/-- A station with an own frame is attached and not quiet (R64). -/
theorem LinkCoherent.sending_station {s : State} {f : TxFrame} (h : LinkCoherent s)
    (ht : s.txFrame = some f) :
    (s.link = .contending ∨ s.link = .sending ∨ s.link = .holding)
      ∧ isAttached s.station = true ∧ s.config.quiet = false := by
  obtain ⟨_, _, _, _, htx, hq, _, _⟩ := id h
  have hl := htx.1 (by rw [ht]; rfl)
  refine ⟨hl, h.attached ?_, ?_⟩
  · rcases hl with hl | hl | hl <;> rw [hl] <;> simp
  · rw [← Bool.not_eq_true]
    intro hquiet
    rw [hq hquiet] at ht
    cases ht

theorem LinkCoherent.txFrame_none {s : State} (h : LinkCoherent s)
    (hl : s.link = .off ∨ s.link = .listen ∨ s.link = .receiving) : s.txFrame = none := by
  obtain ⟨_, _, _, _, htx, _⟩ := h
  rw [← Option.not_isSome_iff_eq_none]
  intro hs
  rcases hl with hl | hl | hl <;> rw [hl] at htx <;> simpa using htx.1 hs

/-- A station in SEARCH is in LISTEN (R52, R62). -/
theorem LinkCoherent.listen_of_search {s : State} {n : Nat} (h : LinkCoherent s)
    (hf : s.framing = .search n) : s.link = .listen := by
  obtain ⟨_, hfo, hft, hh, _⟩ := h
  rw [hf] at hfo hft hh
  cases hl : s.link with
  | listen => rfl
  | off => exact absurd (hfo.2 hl) (by simp)
  | receiving => exact absurd (hft.2 (Or.inl hl)) (by simp)
  | contending => exact absurd (hft.2 (Or.inr (Or.inl hl))) (by simp)
  | sending => exact absurd (hft.2 (Or.inr (Or.inr hl))) (by simp)
  | holding => exact absurd (hh hl) (by simp)

/-- A station on the line, by what its link and framing are. -/
theorem linkCoherent_onLine {u : State} (ha : isAttached u.station = true) (hl : u.link ≠ .off)
    (hf : u.framing ≠ .off)
    (ht : u.framing = .taking ↔ u.link = .receiving ∨ u.link = .contending ∨ u.link = .sending)
    (hh : u.link = .holding → u.framing = .gap false)
    (hx : u.txFrame.isSome = true ↔ u.link = .contending ∨ u.link = .sending ∨ u.link = .holding)
    (hq : u.config.quiet = true → u.txFrame = none ∧ .dominant ∉ u.txd) : LinkCoherent u :=
  ⟨⟨fun h => absurd h hl, fun h => by rw [ha] at h; cases h⟩,
    ⟨fun h => absurd h hf, fun h => absurd h hl⟩, ht, hh, hx, fun h => (hq h).1,
    fun h => absurd h hl, fun h _ => (hq h).2⟩

/-- A station off the line drives nothing and takes nothing (R75, R160). -/
theorem linkCoherent_offLine {u : State} (ha : isAttached u.station = false) (hl : u.link = .off)
    (hf : u.framing = .off) (hx : u.txFrame = none) (ht : u.txd.getLast? = some .recessive) :
    LinkCoherent u := by
  simp [LinkCoherent, ha, hl, hf, hx, ht]

/-- A station in LISTEN with no frame to take or to send. -/
theorem linkCoherent_listen {u : State} (ha : isAttached u.station = true) (hl : u.link = .listen)
    (hf : u.framing ≠ .off ∧ u.framing ≠ .taking) (hx : u.txFrame = none)
    (hq : u.config.quiet = true → .dominant ∉ u.txd) : LinkCoherent u :=
  linkCoherent_onLine ha (by simp [hl]) hf.1 (by simp [hl, hf.2]) (by simp [hl]) (by simp [hl, hx])
    fun h => ⟨hx, hq h⟩

/-- An interval of the line that passes in LISTEN (R51, R52). -/
theorem linkCoherent_interval {s u : State} (h : LinkCoherent s) (hl : s.link = .listen)
    (hul : u.link = s.link) (hst : u.station = s.station)
    (hx : u.txFrame = s.txFrame) (htxd : u.txd = [.recessive])
    (hf : u.framing ≠ .off ∧ u.framing ≠ .taking) : LinkCoherent u :=
  linkCoherent_listen (by rw [hst]; exact h.attached (by simp [hl])) (hul.trans hl) hf
    (hx.trans (h.txFrame_none (Or.inr (Or.inl hl)))) (fun _ => by simp [htxd])

/-- A station that is taking a frame of another (R52, R62). -/
theorem linkCoherent_receiving {u : State} (ha : isAttached u.station = true)
    (hl : u.link = .receiving) (hf : u.framing = .taking) (hx : u.txFrame = none)
    (hq : u.config.quiet = true → .dominant ∉ u.txd) : LinkCoherent u :=
  linkCoherent_onLine ha (by simp [hl]) (by simp [hf]) (by simp [hl, hf]) (by simp [hl])
    (by simp [hl, hx]) fun h => ⟨hx, hq h⟩

/-- A station whose own frame is on the line, which is not quiet (R60, R64). -/
theorem linkCoherent_ownFrame {u : State} {f : TxFrame} (ha : isAttached u.station = true)
    (hl : u.link = .contending ∨ u.link = .sending) (hf : u.framing = .taking)
    (hx : u.txFrame = some f) (hq : u.config.quiet = false) : LinkCoherent u := by
  refine linkCoherent_onLine ha ?_ (by simp [hf]) ?_ ?_ ?_ (by simp [hq]) <;>
    rcases hl with hl | hl <;> simp [hl, hf, hx]

theorem quiet_of_eligible {s : State} {slot : CandidateSlot} (h : eligible s slot = true) :
    s.config.quiet = false := by
  unfold eligible at h
  simpa using (Bool.and_eq_true_iff.1 h).1

/-- A quiet receiver decides no slot (R79). -/
theorem windowLevels_quiet {slots : SlotsRead} {slot : SlotChoice} {n : Nat} {s : State} {v : Verdict}
    (hs : SlotDecided slots slot (receiverSlot n s v)) (hq : s.config.quiet = true) :
    .dominant ∉ windowLevels slot := by
  have hn : slot = .neither := by simp [hs.1, receiverSlot, hq]
  subst hn
  decide

/-- The end of an own frame's window: the hold after an accepted group frame that is not the last, and
LISTEN with no own frame otherwise (R69, R70). -/
theorem senderWindow_line {tx : TxFrame} {f : Frame} {slot : SlotChoice} {o : WindowOutcome}
    {s : State} (ht : s.txFrame = some tx) :
    ((senderWindow tx f slot o s).link = .listen ∧ (senderWindow tx f slot o s).txFrame = none)
    ∨ ((senderWindow tx f slot o s).link = .holding
      ∧ (senderWindow tx f slot o s).txFrame = some tx
      ∧ countsAccepted s.config.solo o = true ∧ f.last = false ∧ ∃ e, f.body = .upd e) := by
  unfold senderWindow
  dsimp only
  split
  · next ho =>
    unfold ownAccepted
    cases hb : f.body with
    | upd e =>
      dsimp only
      cases hlast : f.last with
      | true => simp
      | false => simp [ht, ho]
    | seed => simp
    | freq c => simp
    | fdat c d => simp
  · simp

theorem command_linkCoherent {s x : State} (h : LinkCoherent s) (hx : Command s x) :
    LinkCoherent x := by
  obtain ⟨hoff, hfo, hft, hh, htx, hq, hrec, hdom⟩ := id h
  cases hx with
  | configure p hs hp =>
    have hl : s.link = .off := hoff.2 (by rw [hs]; rfl)
    exact ⟨hoff, hfo, hft, hh, htx, fun _ => h.txFrame_none (Or.inl hl), hrec,
      fun _ hn => absurd hl hn⟩
  | start hs ht =>
    exact linkCoherent_listen (by simp [isAttached]) (by simp) (by simp)
      (by simpa using h.txFrame_none (Or.inl (hoff.2 hs))) (by simp)
  | leaveFaulted hs =>
    have ho : isAttached s.station = false := by rw [hs]; rfl
    exact ⟨by simpa [isAttached] using hoff.2 ho, hfo, hft, hh, htx, hq, hrec, hdom⟩
  | detach hs =>
    exact linkCoherent_offLine (by simp [isAttached]) (by simp) (by simp) (by simp) (by simp)
  | reset => exact linkCoherent_offLine rfl rfl rfl rfl rfl
  | _ => simpa [LinkCoherent] using h

theorem linkCoherent_stopFrame {s : State} {f : TxFrame} (h : LinkCoherent s)
    (ht : s.txFrame = some f) (bit : MismatchBit) : LinkCoherent (stopFrame bit f s) := by
  obtain ⟨_, ha, hq⟩ := h.sending_station ht
  by_cases hn : 4 ≤ mismatchBefore bit s + 1
  · rw [stopFrame_faulted hn]
    exact linkCoherent_offLine (by simp [isAttached]) (by simp) (by simp) (by simp) (by simp)
  · rw [stopFrame_counted hn]
    exact linkCoherent_listen (by simpa using ha) (by simp) (by simp) (by simp) (by simp [hq])

theorem linkCoherent_senderWindow {s : State} {tx : TxFrame} (h : LinkCoherent s)
    (ht : s.txFrame = some tx) (f : Frame) (slot : SlotChoice) (o : WindowOutcome) :
    LinkCoherent (senderWindow tx f slot o s) := by
  obtain ⟨_, ha, hq⟩ := h.sending_station ht
  rcases senderWindow_line (f := f) (slot := slot) (o := o) ht with ⟨hl, hx⟩ | ⟨hl, hx, _⟩
  · exact linkCoherent_listen (by simpa using ha) hl (by simp) hx (by simp [hq])
  · exact linkCoherent_onLine (by simpa using ha) (by simp [hl]) (by simp) (by simp [hl]) (by simp)
      (by simp [hl, hx]) (by simp [hq])

theorem linkCoherent_teardownEnded {s : State} (h : LinkCoherent s) :
    LinkCoherent (teardownEnded s) := by simpa [LinkCoherent] using h

/-- The teardown's grant runs only off the line (R12). -/
theorem offLine_of_teardown {s : State} (h : StationFollowsCells s) (hr : s.running = some .teardown) :
    isAttached s.station = false := by
  obtain ⟨_, _, _, hatt, _, hrun, _⟩ := h
  rw [← Bool.not_eq_true]
  intro ha
  rw [hatt ha] at hrun
  exact absurd (hrun hr) (by simp)

theorem row_linkCoherent {s u : State} (hs : StationFollowsCells s) (h : LinkCoherent s)
    (hu : Row s u) : LinkCoherent u := by
  cases hu with
  | hardReset => exact linkCoherent_offLine rfl rfl rfl rfl rfl
  | teardown hr =>
    have he := linkCoherent_teardownEnded h
    rcases runTeardown_cases s with hc | hc
    · rw [hc]
      exact command_linkCoherent he
        (.start (by simpa using offLine_of_teardown hs hr) (by simp))
    · rw [hc]; exact he
  | noCandidate hl hf => exact linkCoherent_interval h hl rfl rfl rfl rfl (by simp [hf])
  | contentionStart slot f hl hf he hsf =>
    exact linkCoherent_ownFrame (f := f) (by simpa using h.attached (by simp [hl])) (by simp) (by simp)
      (by simp) (by simpa using quiet_of_eligible he)
  | contentionLost k f hl ht =>
    obtain ⟨_, ha, hq⟩ := h.sending_station ht
    obtain ⟨_, _, hft, _⟩ := h
    exact linkCoherent_receiving (by simpa using ha) (by simp)
      (by simpa using hft.2 (by simp [hl])) (by simp) (by simp [hq])
  | keyWon f hl ht =>
    obtain ⟨_, ha, hq⟩ := h.sending_station ht
    obtain ⟨_, _, hft, _⟩ := h
    exact linkCoherent_ownFrame (f := f) (by simpa using ha) (by simp)
      (by simpa using hft.2 (by simp [hl])) (by simpa using ht) (by simpa using hq)
  | frameTaken hl hf =>
    exact linkCoherent_receiving (by simpa using h.attached (by simp [hl])) (by simp) (by simp)
      (by simpa using h.txFrame_none (by simp [hl])) (by simp)
  | lateStartMark late hl hf => exact linkCoherent_interval h hl rfl rfl rfl rfl (by simp)
  | brokenTake n hf =>
    exact linkCoherent_interval h (h.listen_of_search hf) (by simp) (by simp) (by simp) (by simp)
      (by simp)
  | truncation hl hf =>
    exact linkCoherent_listen (h.attached (by simp [hl])) rfl (by simp) rfl (by simp)
  | mismatch bit f ht hm => exact linkCoherent_stopFrame h ht bit
  | holdGap f hl hf hn =>
    obtain ⟨g, hg⟩ : ∃ g, s.txFrame = some g := by
      obtain ⟨_, _, _, _, htx, _⟩ := h
      exact Option.isSome_iff_exists.1 (htx.2 (by simp [hl]))
    obtain ⟨_, ha, hq⟩ := h.sending_station hg
    exact linkCoherent_ownFrame ha (Or.inr rfl) rfl rfl hq
  | holdIntrusion hl hf =>
    exact linkCoherent_receiving (by simpa using h.attached (by simp [hl])) (by simp) (by simp)
      (by simp) (by simp)
  | holdLimit late hl hf => exact linkCoherent_interval h hl rfl rfl rfl rfl (by simp)
  | restAfterGap late hl hf => exact linkCoherent_interval h hl rfl rfl rfl rfl (by simp)
  | restAfterSearch n hl hf => exact linkCoherent_interval h hl rfl rfl rfl rfl (by simp)
  | idleAtRest hl hf => exact linkCoherent_interval h hl rfl rfl rfl rfl (by simp [hf])
  | idleInSearch n hl hf => exact linkCoherent_interval h hl rfl rfl rfl rfl (by simp)
  | idleAfterGap late hl hf => exact linkCoherent_interval h hl rfl rfl rfl rfl (by simp)
  | received frame slots n slot hf hl hd =>
    exact linkCoherent_listen (by simpa using h.attached (by simp [hl])) (by simp) (by simp)
      (by simpa using h.txFrame_none (by simp [hl])) (by simpa using windowLevels_quiet hd)
  | sent tx f slots n slot hf hl ht hc hd => exact linkCoherent_senderWindow h ht f _ _
  | _ => simpa [LinkCoherent] using h

theorem settle_linkCoherent {s : State} (h : LinkCoherent s) : LinkCoherent (settle s) := by
  simpa [LinkCoherent] using h

/-! ### Station state and cells, row by row (R95) -/

theorem stationFollowsCells_teardownEnded {s : State} (h : StationFollowsCells s)
    (hr : s.running = some .teardown) : StationFollowsCells (teardownEnded s) := by
  refine stationFollowsCells_report h (by simp) (by simp) (by simp) (by simp) (fun _ _ i => ?_)
    (fun ho => ?_)
  · simp [cellAt_clearAll, unknownCell_known]
  · simpa using items_of_offLine h ho (by simp [hr])

theorem row_stationFollowsCells {s u : State} (h : StationFollowsCells s) (hlink : LinkCoherent s)
    (hu : Row s u) : StationFollowsCells u := by
  cases hu with
  | hardReset => exact stationFollowsCells_of_initial rfl rfl rfl rfl rfl
  | groupApply g rest hr hi =>
    exact stationFollowsCells_apply h hi (by simp) (by simp) (by simp) (by simp) (by simp)
  | fdatApply c d rest hr hi =>
    exact stationFollowsCells_apply h hi (by simp) (by simp) (by simp) (by simp) (by simp)
  | seedApply rest hr hi =>
    exact stationFollowsCells_apply h hi (by simp) (by simp) (by simp) (by simp) (by simp)
  | stepLossClear hr =>
    obtain ⟨_, _, _, hatt, _⟩ := id h
    refine stationFollowsCells_report h (by simp) (by simp) (by simpa using hatt) (by simp)
      (fun _ _ i => ?_) (fun ho => ?_)
    · simp [cellAt_clearAll, unknownCell_known]
    · simpa using items_of_offLine h ho (by simp [hr])
  | teardown hr =>
    have he := stationFollowsCells_teardownEnded h hr
    rcases runTeardown_cases s with hc | hc
    · rw [hc]
      exact stationFollowsCells_attach he (by simpa using offLine_of_teardown h hr) (by simp)
    · rw [hc]; exact he
  | fdatRead c hr =>
    exact stationFollowsCells_grantEnd h (by simp) (by simp) (by simp) (by simp) (by simp) (by simp)
      (by simp [hr])
  | tableCommand op hr =>
    exact stationFollowsCells_grantEnd h (fun i => by simpa using (tableAfter_cell op s.table i).1)
      (by simp) (by simp) (by simp) (by simp) (by simp) (by simp [hr])
  | refill hr =>
    exact stationFollowsCells_grantEnd h (by simp) (by simp) (by simp) (by simp) (by simp) (by simp)
      (by simp [hr])
  | mismatch bit f ht hm =>
    by_cases hn : 4 ≤ mismatchBefore bit s + 1
    · rw [stopFrame_faulted hn]
      exact stationFollowsCells_leaveLine h (by simp) (by simp) (by simp) (by simp) (by simp) (by simp)
    · rw [stopFrame_counted hn]
      simpa [StationFollowsCells, SummaryAgrees, OffLineItems] using h
  | received frame slots n slot hf hl hd =>
    exact stationFollowsCells_attached h (hlink.attached (by simp [hl])) (by simp) (by simp) (by simp)
      (by simp) (by simp)
  | sent tx f slots n slot hf hl ht hc hd =>
    exact stationFollowsCells_attached h (hlink.attached (by simp [hl])) (by simp) (by simp) (by simp)
      (by simp) (by simp)
  | _ => simpa [StationFollowsCells, SummaryAgrees, OffLineItems] using h

end Sys2Proof.Machine
end

section
/-!
PROOF. The apply list and the FDAT payload read, and with them what every step keeps of replica, station
and link (R8, R11, R14, R64, R79, R112).
-/
namespace Sys2Proof.Machine

/-! ### The apply list (R8, R11, R79) -/

/-- The head item removed (R8, R11, R79). -/
theorem applyListBounded_removed {s u : State} {item : Item} {rest : List Item}
    (h : ApplyListBounded s) (hi : s.items = item :: rest) (hui : u.items = s.items.tail)
    (hf : u.framing = s.framing)
    (ha : u.appliedSinceMark
      = if s.framing = .taking then s.appliedSinceMark + 1 else s.appliedSinceMark)
    (hc : u.pendingClear = s.pendingClear.map (· - 1)) : ApplyListBounded u := by
  obtain ⟨hlen, htake, hclear⟩ := h
  rw [hi] at hlen htake hclear
  simp only [List.length_cons] at hlen htake hclear
  have hu : u.items = rest := by rw [hui, hi]; rfl
  refine ⟨by rw [hu]; omega, fun hft => ?_, fun n hn => ?_⟩
  · rw [hf] at hft
    rw [hu, ha, if_pos hft]
    have := htake hft
    omega
  · rw [hc] at hn
    obtain ⟨m, hm, rfl⟩ := Option.map_eq_some_iff.1 hn
    have := hclear m hm
    rw [hu]
    omega

/-- A pending clear that is as it was, or placed behind every item present (R11). -/
def ClearFits (s u : State) : Prop :=
  u.pendingClear = s.pendingClear ∨ u.pendingClear = some s.items.length

theorem ClearFits.isSome {s u : State} (h : ClearFits s u) (hs : s.pendingClear.isSome = true) :
    u.pendingClear.isSome = true := by
  rcases h with h | h <;> rw [h]
  · exact hs
  · rfl

/-- An empty list with no clear pending and no frame being taken. -/
theorem applyListBounded_empty {u : State} (hi : u.items = []) (hf : u.framing = .off)
    (hc : u.pendingClear = none) : ApplyListBounded u := by
  simp [ApplyListBounded, hi, hf, hc]

/-- The list as it was, with no frame being taken or one just begun (R79). -/
theorem applyListBounded_same {s u : State} (h : ApplyListBounded s) (hi : u.items = s.items)
    (hf : u.framing = .taking → u.appliedSinceMark = 0) (hc : ClearFits s u) :
    ApplyListBounded u := by
  obtain ⟨hlen, _, hclear⟩ := h
  refine ⟨by rw [hi]; exact hlen, fun hft => by rw [hf hft, hi]; exact hlen, fun n hn => ?_⟩
  rw [hi]
  rcases hc with hc | hc <;> rw [hc] at hn
  · exact hclear n hn
  · cases hn; exact Nat.le_refl _

/-- One item appended at the end of a window, to a list with room (R8, R84). -/
theorem applyListBounded_appended {s u : State} {item : Item} (h : ApplyListBounded s)
    (hroom : s.items.length < 2) (hi : u.items = s.items ++ [item]) (hf : u.framing ≠ .taking)
    (hc : u.pendingClear = s.pendingClear) : ApplyListBounded u := by
  obtain ⟨_, _, hclear⟩ := h
  refine ⟨by rw [hi, List.length_append]; exact hroom, fun hft => absurd hft hf, fun n hn => ?_⟩
  rw [hc] at hn
  have := hclear n hn
  rw [hi, List.length_append]
  omega

/-- A station that leaves the line keeps at most the item under a running apply grant (R12). -/
theorem applyListBounded_leaveLine {s u : State} (hi : u.items = itemsUnderGrant s)
    (hf : u.framing = .off) (hc : u.pendingClear = none) : ApplyListBounded u := by
  have hle : (itemsUnderGrant s).length ≤ 1 := by
    unfold itemsUnderGrant
    split
    · exact List.length_take_le _ _
    · exact Nat.zero_le _
  refine ⟨by rw [hi]; omega, fun hft => ?_, fun n hn => ?_⟩
  · rw [hf] at hft; cases hft
  · rw [hc] at hn; cases hn

theorem clearFits_breakTake (s : State) : ClearFits s (breakTake s) := by
  unfold breakTake loseStep ClearFits
  split
  · dsimp only
    split <;> simp
  · exact Or.inl rfl

theorem loseStep_pendingClear (s : State) : (loseStep s).pendingClear = some s.items.length := by
  unfold loseStep
  dsimp only
  split <;> simp

/-- An accepted frame adds one item when it completes one, and none otherwise (R79, R84). -/
theorem acceptFrame_items (f : Frame) (s : State) :
    (completesItem f = false ∧ (acceptFrame f s).items = s.items)
    ∨ (completesItem f = true ∧ ∃ item, (acceptFrame f s).items = s.items ++ [item]) := by
  unfold acceptFrame completesItem
  cases f.body with
  | upd e =>
    unfold acceptUpd
    cases f.last with
    | true => exact Or.inr ⟨rfl, _, rfl⟩
    | false => exact Or.inl ⟨rfl, rfl⟩
  | freq c => exact Or.inl ⟨rfl, by simp⟩
  | fdat c d => exact Or.inr ⟨rfl, _, by simp; rfl⟩
  | seed => exact Or.inr ⟨rfl, _, by simp; rfl⟩

/-- What the receive side does to the list: one item appended where there is room, or nothing but a
step loss's clear (R8, R84, R92). -/
theorem receiveWindow_items (v : Verdict) (slot : SlotChoice) (o : WindowOutcome) (s : State) :
    ((receiveWindow v slot o s).items = s.items ∧ ClearFits s (receiveWindow v slot o s))
    ∨ (s.items.length < 2 ∧ (receiveWindow v slot o s).pendingClear = s.pendingClear
      ∧ ∃ item, (receiveWindow v slot o s).items = s.items ++ [item]) := by
  have hlose : ∀ x : State, x.items = s.items →
      (loseStep x).items = s.items ∧ ClearFits s (loseStep x) := fun x hx =>
    ⟨by simpa using hx, Or.inr (by rw [loseStep_pendingClear, hx])⟩
  unfold receiveWindow
  cases o with
  | rejected => exact Or.inl ⟨rfl, Or.inl rfl⟩
  | accepted =>
    dsimp only [receiveAccepted]
    cases v with
    | faulty => exact Or.inl (hlose _ rfl)
    | sound f =>
      dsimp only
      split
      · exact Or.inl (hlose _ rfl)
      · next hfull =>
        rcases acceptFrame_items f _ with ⟨_, hi⟩ | ⟨hci, item, hi⟩
        · exact Or.inl ⟨hi, Or.inl (by simp)⟩
        · refine Or.inr ⟨?_, by simp, item, hi⟩
          simpa [hci, listFull, Config.applyCapacity] using hfull
  | unheard =>
    dsimp only [receiveUnheard]
    cases v with
    | faulty => exact Or.inl (hlose _ rfl)
    | sound f =>
      dsimp only
      split
      · exact Or.inl (hlose _ rfl)
      · next hci =>
        have hlast : ∀ e, f.body = .upd e → f.last = false := fun e he => by
          simpa [completesItem, he] using hci
        cases hb : f.body with
        | upd e =>
          refine Or.inl ⟨?_, Or.inl (by simp)⟩
          simp [acceptUpd, hlast e hb]
        | freq c => exact Or.inl ⟨rfl, Or.inl rfl⟩
        | fdat c d => exact Or.inl ⟨rfl, Or.inl rfl⟩
        | seed => exact Or.inl ⟨rfl, Or.inl rfl⟩

/-- An own frame that counts as accepted adds at most one item, and only when it completes one. -/
theorem ownAccepted_items (f : Frame) (s : State) :
    (ownAccepted f s).items = s.items
    ∨ (completesItem f = true ∧ ∃ item, (ownAccepted f s).items = s.items ++ [item]) := by
  unfold ownAccepted completesItem
  cases f.body with
  | upd e =>
    dsimp only
    cases f.last with
    | false => exact Or.inl rfl
    | true =>
      unfold ownGroupAccepted
      cases s.committed with
      | none => exact Or.inl rfl
      | some g => exact Or.inr ⟨rfl, _, rfl⟩
  | freq c => exact Or.inl (by simp)
  | fdat c d => exact Or.inr ⟨rfl, _, by simp; rfl⟩
  | seed => exact Or.inr ⟨rfl, _, by simp; rfl⟩

/-- A sender whose frame completes an item and counts as accepted was not BUSY (R78, R79, R89). -/
theorem room_of_accepted {slots : SlotsRead} {slot : SlotChoice} {n : Nat} {s : State} {f : Frame}
    {solo : Bool} (hd : SlotDecided slots slot (senderSlot n s f)) (hq : s.config.quiet = false)
    (ha : countsAccepted solo (windowReads slots) = true) (hc : completesItem f = true) :
    s.items.length < 2 := by
  obtain ⟨hslot, hback⟩ := hd
  have hveto : slots.veto = false := by
    by_contra hv
    rw [Bool.not_eq_false] at hv
    simp [windowReads, hv, countsAccepted] at ha
  have hbusy : busyTurnaround n s = false := by
    by_contra hb
    rw [Bool.not_eq_false] at hb
    have hs : slot = .veto := by simp [hslot, senderSlot, hq, hc, hb]
    rw [hs] at hback
    exact absurd hback (by simp [slotReadBack, hveto])
  have hlt : s.items.length + min n s.appliedSinceMark < 2 := by
    simpa [busyTurnaround, Config.applyCapacity] using hbusy
  omega

theorem senderWindow_items {tx : TxFrame} {f : Frame} {slots : SlotsRead} {slot : SlotChoice}
    {n : Nat} {s : State} (hd : SlotDecided slots slot (senderSlot n s f))
    (hq : s.config.quiet = false) :
    (senderWindow tx f slot (windowReads slots) s).items = s.items
    ∨ (s.items.length < 2
      ∧ ∃ item, (senderWindow tx f slot (windowReads slots) s).items = s.items ++ [item]) := by
  unfold senderWindow
  dsimp only
  split
  · next ha =>
    rcases ownAccepted_items f _ with hi | ⟨hc, hi⟩
    · exact Or.inl hi
    · exact Or.inr ⟨room_of_accepted hd hq ha hc, hi⟩
  · exact Or.inl (by simp)

theorem command_applyListBounded {s x : State} (h : ApplyListBounded s) (hx : Command s x) :
    ApplyListBounded x := by
  cases hx with
  | start hs ht => exact applyListBounded_same h (by simp) (by simp) (Or.inl (by simp))
  | detach hs => exact applyListBounded_leaveLine (s := s) (by simp) (by simp) (by simp)
  | reset => exact applyListBounded_empty rfl rfl rfl
  | _ => simpa [ApplyListBounded] using h

theorem row_applyListBounded {s u : State} (hlink : LinkCoherent s) (h : ApplyListBounded s)
    (hu : Row s u) : ApplyListBounded u := by
  have hclear : ClearFits s s := Or.inl rfl
  cases hu with
  | hardReset => exact applyListBounded_empty rfl rfl rfl
  | groupApply g rest hr hi =>
    exact applyListBounded_removed h hi (by simp) (by simp) (by simp) (by simp)
  | fdatApply c d rest hr hi =>
    exact applyListBounded_removed h hi (by simp) (by simp) (by simp) (by simp)
  | seedApply rest hr hi =>
    exact applyListBounded_removed h hi (by simp) (by simp) (by simp) (by simp)
  | stepLossClear hr =>
    obtain ⟨hlen, htake, hc⟩ := h
    refine ⟨by simpa using hlen, by simpa using htake, fun n hn => ?_⟩
    have hp : (runClear s).pendingClear
        = if s.pendingClear = some 0 then none else s.pendingClear := by simp
    rw [hp] at hn
    split at hn
    · cases hn
    · simpa using hc n hn
  | teardown hr =>
    rcases runTeardown_cases s with hc | hc <;> rw [hc]
    · exact applyListBounded_same h (by simp) (by simp) (Or.inl (by simp))
    · simpa [ApplyListBounded] using h
  | contentionStart => exact applyListBounded_same h (by simp) (by simp) (Or.inl (by simp))
  | frameTaken => exact applyListBounded_same h (by simp) (by simp) (Or.inl (by simp))
  | lateStartMark => exact applyListBounded_same h rfl (by simp) hclear
  | brokenTake =>
    exact applyListBounded_same h (by simp) (by simp) (clearFits_breakTake s)
  | truncation => exact applyListBounded_same h rfl (by simp) hclear
  | mismatch bit f ht hm =>
    by_cases hn : 4 ≤ mismatchBefore bit s + 1
    · rw [stopFrame_faulted hn]
      exact applyListBounded_leaveLine (s := s) (by simp) (by simp) (by simp)
    · rw [stopFrame_counted hn]
      exact applyListBounded_same h (by simp) (by simp) (Or.inl (by simp))
  | holdGap => exact applyListBounded_same h rfl (by simp) hclear
  | holdIntrusion => exact applyListBounded_same h (by simp) (by simp) (Or.inl (by simp))
  | holdLimit => exact applyListBounded_same h rfl (by simp) hclear
  | restAfterGap => exact applyListBounded_same h rfl (by simp) hclear
  | restAfterSearch => exact applyListBounded_same h rfl (by simp) hclear
  | idleInSearch => exact applyListBounded_same h rfl (by simp) hclear
  | idleAfterGap => exact applyListBounded_same h rfl (by simp) hclear
  | received frame slots n slot hf hl hd =>
    rcases receiveWindow_items (judgeFrame s.groupBuffer frame) slot (windowReads slots) s with
      ⟨hi, hc⟩ | ⟨hroom, hc, item, hi⟩
    · exact applyListBounded_same h hi (by simp) hc
    · exact applyListBounded_appended h hroom hi (by simp) hc
  | sent tx f slots n slot hf hl ht hc hd =>
    obtain ⟨_, _, hq⟩ := hlink.sending_station ht
    rcases senderWindow_items (tx := tx) hd hq with hi | ⟨hroom, item, hi⟩
    · exact applyListBounded_same h hi (by simp) (Or.inl (by simp))
    · exact applyListBounded_appended h hroom hi (by simp) (by simp)
  | _ => simpa [ApplyListBounded] using h

/-! ### The FDAT payload read (R14, R64, R112) -/

/-- No read is due: no claim waits, and a running read's records go nowhere. -/
theorem not_fdatReadDue_iff (s : State) : ¬ FdatReadDue s ↔
    s.fdatClaim = none ∧ ∀ c, s.running = some (.fdatRead c) → s.runningDiscarded = true := by
  simp [FdatReadDue]

/-- With no read due, the running grant's item or clear is all that is left to state. -/
theorem fdatReadFits_of_not_due {s : State} (hd : ¬ FdatReadDue s)
    (ha : s.running = some .apply → s.items ≠ [])
    (hc : s.running = some .stepLossClear →
      s.pendingClear.isSome = true ∨ s.teardownPending = true) : FdatReadFits s :=
  ⟨ha, hc, fun h => absurd h hd, fun c hr hrd => absurd (Or.inr ⟨c, hr, hrd⟩) hd⟩

/-- A free port with no FDAT claim waiting. -/
theorem fdatReadFits_of_free {s : State} (hr : s.running = none) (hc : s.fdatClaim = none) :
    FdatReadFits s := by
  refine fdatReadFits_of_not_due ((not_fdatReadDue_iff s).2 ⟨hc, fun c h => ?_⟩) ?_ ?_ <;>
    simp_all

theorem FdatReadFits.claim_none {s : State} (hd : ¬ FdatReadDue s) : s.fdatClaim = none :=
  ((not_fdatReadDue_iff s).1 hd).1

/-- A read is due only while an own FDAT is being sent by an IN-STEP station with no item listed. -/
theorem FdatReadFits.not_due {s : State} (h : FdatReadFits s)
    (hn : s.framing ≠ .taking ∨ s.items ≠ [] ∨ s.txFrame = none ∨ s.station ≠ .inStep
      ∨ s.pendingClear ≠ none) : ¬ FdatReadDue s := by
  obtain ⟨_, _, hdue, _⟩ := h
  intro hd
  obtain ⟨_, hst, hi, hc, hf, _, f, c, ht, _⟩ := hdue hd
  rw [ht] at hn
  simp_all

/-- With no read due, a step that leaves claims and grants as they are. -/
theorem fdatReadFits_kept {s u : State} (h : FdatReadFits s) (hd : ¬ FdatReadDue s)
    (hr : u.running = s.running) (hrd : u.runningDiscarded = s.runningDiscarded)
    (hc : u.fdatClaim = s.fdatClaim) (hi : s.items ≠ [] → u.items ≠ [])
    (hp : s.pendingClear.isSome = true ∨ s.teardownPending = true →
      u.pendingClear.isSome = true ∨ u.teardownPending = true) : FdatReadFits u := by
  obtain ⟨ha, hb, _, _⟩ := h
  refine fdatReadFits_of_not_due ?_ (fun hra => hi (ha (hr ▸ hra))) (fun hrc => hp (hb (hr ▸ hrc)))
  simpa only [FdatReadDue, hr, hrd, hc] using hd

/-- A frame that is lost or stopped takes its payload read with it (R14, R68). -/
theorem fdatReadFits_dropped {s u : State} (h : FdatReadFits s) (hr : u.running = s.running)
    (hrd : ∀ c, s.running = some (.fdatRead c) → u.runningDiscarded = true)
    (hc : u.fdatClaim = none) (hi : s.running = some .apply → s.items ≠ [] → u.items ≠ [])
    (hp : s.pendingClear.isSome = true ∨ s.teardownPending = true →
      u.pendingClear.isSome = true ∨ u.teardownPending = true) : FdatReadFits u := by
  obtain ⟨ha, hb, _, _⟩ := h
  refine fdatReadFits_of_not_due ((not_fdatReadDue_iff u).2 ⟨hc, fun c hc => hrd c (hr ▸ hc)⟩)
    (fun hra => ?_) (fun hrc => hp (hb (hr ▸ hrc)))
  rw [hr] at hra
  exact hi hra (ha hra)

theorem dropFdatRead_discards {s : State} {c : Chunk} (h : s.running = some (.fdatRead c)) :
    (dropFdatRead s).runningDiscarded = true := by simp [dropFdatRead, h]

theorem leaveLine_discards (st : StationState) {s : State} {c : Chunk}
    (h : s.running = some (.fdatRead c)) : (leaveLine st s).runningDiscarded = true := by
  unfold leaveLine linkOff
  simp [dropFdatRead, h]

theorem fdatReadFits_leaveLine {s u : State} (h : FdatReadFits s) (hr : u.running = s.running)
    (hrd : ∀ c, s.running = some (.fdatRead c) → u.runningDiscarded = true)
    (hc : u.fdatClaim = none) (hi : u.items = itemsUnderGrant s) (ht : u.teardownPending = true) :
    FdatReadFits u := by
  refine fdatReadFits_dropped h hr hrd hc (fun hra hne => ?_) (fun _ => Or.inr ht)
  rw [hi, itemsUnderGrant, if_pos hra]
  simpa using hne

theorem command_fdatReadFits {s x : State} (h : FdatReadFits s) (hx : Command s x) :
    FdatReadFits x := by
  cases hx with
  | start hs ht =>
    refine fdatReadFits_kept h (h.not_due ?_) (by simp) (by simp) (by simp) (by simp) (by simp)
    refine Or.inr (Or.inr (Or.inr (Or.inl fun hin => ?_)))
    rw [hin] at hs
    cases hs
  | leaveFaulted hs =>
    exact fdatReadFits_kept h (h.not_due (by simp [hs])) rfl rfl rfl id id
  | detach hs =>
    exact fdatReadFits_leaveLine h (by simp) (fun _ => leaveLine_discards _) (by simp) (by simp) (by simp)
  | reset => exact fdatReadFits_of_free rfl rfl
  | _ => simpa [FdatReadFits, FdatReadDue] using h

/-- An own FDAT's claim is raised at an IN-STEP station with nothing pending (R14, R64, R112). -/
theorem fdatReadFits_contentionStart {s : State} {slot : CandidateSlot} {f : TxFrame}
    (hst : StationFollowsCells s) (hans : AnswerListFits s) (h : FdatReadFits s)
    (hf : s.framing = .rest) (he : eligible s slot = true) (hs : slotFrame s slot = some f) :
    FdatReadFits (beginContention f s) := by
  have hd : ¬ FdatReadDue s := h.not_due (by simp [hf])
  have hkept : ∀ u : State, u.running = s.running → u.runningDiscarded = s.runningDiscarded →
      u.fdatClaim = s.fdatClaim → u.items = s.items → u.pendingClear = s.pendingClear →
      u.teardownPending = s.teardownPending → FdatReadFits u := fun u h1 h2 h3 h4 h5 h6 =>
    fdatReadFits_kept h hd h1 h2 h3 (by rw [h4]; exact id) (by rw [h5, h6]; exact id)
  unfold beginContention startSlot
  cases hb : f.body with
  | seed => exact hkept _ rfl rfl rfl rfl rfl rfl
  | freq c => exact hkept _ rfl rfl rfl rfl rfl rfl
  | upd e => exact hkept _ rfl rfl rfl rfl rfl rfl
  | fdat c =>
    have hslot : slot = .answer := by
      cases slot with
      | answer => rfl
      | seed => cases hs; cases hb
      | request =>
        obtain ⟨d, _, rfl⟩ := Option.map_eq_some_iff.1 hs
        cases hb
      | group =>
        obtain ⟨g, _, hg⟩ := Option.bind_eq_some_iff.1 hs
        obtain ⟨e, _, rfl⟩ := Option.map_eq_some_iff.1 hg
        cases hb
    subst hslot
    have hel : s.answers ≠ [] ∧ s.items = [] ∧ s.pendingClear = none := by
      simp only [eligible, Bool.and_eq_true, Bool.not_eq_true', List.isEmpty_eq_false_iff,
        List.isEmpty_iff, Option.isNone_iff_eq_none] at he
      exact ⟨he.2.1.1.1.1, he.2.1.2, he.2.2⟩
    obtain ⟨hne, hi, hc⟩ := hel
    obtain ⟨hin, _⟩ := hans.2 hne
    obtain ⟨_, hknown, _⟩ := hst
    obtain ⟨ha, hclear, _, _⟩ := h
    refine ⟨ha, hclear, fun _ => ?_, fun d hr hrd => absurd (Or.inr ⟨d, hr, hrd⟩) hd⟩
    exact ⟨hknown hin, hin, hi, hc, rfl, rfl, f, c, rfl, hb⟩

/-- The end of an FDAT's read: its records are copied, or they were discarded and another claim may
wait (R14, R68). -/
theorem fdatReadFits_runFdatRead {s : State} {c : Chunk} (h : FdatReadFits s)
    (hr : s.running = some (.fdatRead c)) : FdatReadFits (runFdatRead c s) := by
  obtain ⟨_, _, hdue, hone⟩ := h
  cases hrd : s.runningDiscarded with
  | false => exact fdatReadFits_of_free (by simp) (by simpa using hone c hr hrd)
  | true =>
    have hu : runFdatRead c s = endGrant s := by simp [runFdatRead, hrd]
    rw [hu]
    refine ⟨by simp, by simp, fun hd => ?_, by simp⟩
    have hclaim : s.fdatClaim.isSome = true := by simpa [FdatReadDue] using hd
    exact hdue (Or.inl hclaim)

/-- A grant of the port that ends leaves a read that is due as it was. -/
theorem fdatReadFits_portGrant {s u : State} (h : FdatReadFits s)
    (hur : u.running = none) (hc : u.fdatClaim = s.fdatClaim)
    (hk : ∀ i, (cellAt u.table i).known = (cellAt s.table i).known) (hst : u.station = s.station)
    (hi : u.items = s.items) (hp : u.pendingClear = s.pendingClear) (hf : u.framing = s.framing)
    (hcopy : u.fdatCopy = s.fdatCopy) (ht : u.txFrame = s.txFrame) : FdatReadFits u := by
  obtain ⟨_, _, hdue, _⟩ := h
  refine ⟨by simp [hur], by simp [hur], fun hd => ?_, by simp [hur]⟩
  have hclaim : FdatReadDue s := by
    refine Or.inl ?_
    simpa [FdatReadDue, hur, hc] using hd
  simpa only [hk, hst, hi, hp, hf, hcopy, ht] using hdue hclaim

/-- A flush discards the records of no FDAT read (R15, R142). -/
theorem fdatReadFits_flushPort {s : State} (h : FdatReadFits s) : FdatReadFits (flushPort s) := by
  have hsame : ∀ c, s.running = some (.fdatRead c) →
      (flushPort s).runningDiscarded = s.runningDiscarded := fun c hr => by
    simp [flushPort, portRunning, hr, servesPort]
  obtain ⟨ha, hb, hdue, hone⟩ := h
  refine ⟨ha, hb, fun hd => hdue ?_, fun c hr hrd => hone c hr (by rw [← hsame c hr]; exact hrd)⟩
  rcases hd with hd | ⟨c, hr, hrd⟩
  · exact Or.inl hd
  · exact Or.inr ⟨c, hr, by rw [← hsame c hr]; exact hrd⟩

/-- An own frame with all its contents waits for no read (R14, R68). -/
theorem not_due_of_contents {s : State} {tx : TxFrame} {f : Frame} (h : FdatReadFits s)
    (ht : s.txFrame = some tx) (hc : txContents tx s.fdatCopy = some f) : ¬ FdatReadDue s := by
  obtain ⟨_, _, hdue, _⟩ := h
  intro hd
  obtain ⟨_, _, _, _, _, hcopy, g, c, hg, hb⟩ := hdue hd
  rw [ht] at hg
  cases hg
  simp [txContents, hb, hcopy] at hc

theorem row_fdatReadFits {s u : State} (hst : StationFollowsCells s) (hlink : LinkCoherent s)
    (hans : AnswerListFits s) (h : FdatReadFits s) (hu : Row s u) : FdatReadFits u := by
  have hfree : ∀ v : State, ¬ FdatReadDue s → v.running = none → v.fdatClaim = s.fdatClaim →
      FdatReadFits v := fun v hd hr hc =>
    fdatReadFits_of_free hr (hc.trans (FdatReadFits.claim_none hd))
  have hitems : ∀ item rest, s.items = item :: rest → ¬ FdatReadDue s := fun _ _ hi =>
    h.not_due (by simp [hi])
  have hlisten : s.link = .listen → ¬ FdatReadDue s := fun hl =>
    h.not_due (by simp [hlink.txFrame_none (Or.inr (Or.inl hl))])
  have hgap : ∀ late, s.framing = .gap late → ¬ FdatReadDue s := fun late hf =>
    h.not_due (by simp [hf])
  cases hu with
  | flush => exact fdatReadFits_flushPort h
  | hardReset => exact fdatReadFits_of_free rfl rfl
  | groupApply g rest hr hi => exact hfree _ (hitems _ _ hi) (by simp) (by simp)
  | fdatApply c d rest hr hi => exact hfree _ (hitems _ _ hi) (by simp) (by simp)
  | seedApply rest hr hi => exact hfree _ (hitems _ _ hi) (by simp) (by simp)
  | stepLossClear hr =>
    refine hfree _ (h.not_due ?_) (by simp) (by simp)
    obtain ⟨_, hclear, _, _⟩ := h
    obtain ⟨_, _, _, hatt, _⟩ := hst
    rcases hclear hr with hc | ht
    · exact Or.inr (Or.inr (Or.inr (Or.inr (Option.isSome_iff_ne_none.1 hc))))
    · refine Or.inr (Or.inr (Or.inr (Or.inl fun hin => ?_)))
      rw [hatt (by rw [hin]; rfl)] at ht
      cases ht
  | teardown hr =>
    refine hfree _ (h.not_due (Or.inr (Or.inr (Or.inr (Or.inl fun hin => ?_))))) (by simp) (by simp)
    have ho := offLine_of_teardown hst hr
    rw [hin] at ho
    cases ho
  | fdatRead c hr => exact fdatReadFits_runFdatRead h hr
  | tableCommand op hr =>
    exact fdatReadFits_portGrant h (by simp) (by simp)
      (fun i => by simpa using (tableAfter_cell op s.table i).1) (by simp) (by simp) (by simp)
      (by simp) (by simp) (by simp)
  | refill hr =>
    exact fdatReadFits_portGrant h (by simp) (by simp) (by simp) (by simp) (by simp) (by simp)
      (by simp) (by simp) (by simp)
  | noCandidate hl hf => exact fdatReadFits_kept h (hlisten hl) rfl rfl rfl id id
  | contentionStart slot f hl hf he hs => exact fdatReadFits_contentionStart hst hans h hf he hs
  | contentionLost k f hl ht =>
    refine fdatReadFits_dropped h (by simp) (fun c hr => ?_) (by simp) (by simp) (by simp)
    have hd := dropFdatRead_discards (s := stopDriving (levelsTo (k.val + 1) f s)
      { s with link := .receiving, txFrame := none, rxFrame := some { own := false, verdict := none } }) hr
    simpa [loseKey] using hd
  | frameTaken hl hf =>
    exact fdatReadFits_kept h (hlisten hl) (by simp) (by simp) (by simp) (by simp) (by simp)
  | lateStartMark late hl hf => exact fdatReadFits_kept h (hlisten hl) rfl rfl rfl id id
  | brokenTake n hf =>
    refine fdatReadFits_kept h (h.not_due (by simp [hf])) (by simp) (by simp) (by simp) (by simp) ?_
    exact Or.imp (clearFits_breakTake s).isSome (by simp)
  | truncation hl hf =>
    exact fdatReadFits_kept h (h.not_due (by simp [hlink.txFrame_none (by simp [hl])])) rfl rfl rfl id id
  | mismatch bit f ht hm =>
    by_cases hn : 4 ≤ mismatchBefore bit s + 1
    · rw [stopFrame_faulted hn]
      refine fdatReadFits_leaveLine h (by simp) (fun c hr => ?_) (by simp) (by simp) (by simp)
      simpa [enterFaulted] using
        leaveLine_discards .faulted (s := { s with mismatch := Config.faultMismatches }) hr
    · rw [stopFrame_counted hn]
      refine fdatReadFits_dropped h (by simp) (fun c hr => ?_) (by simp) (by simp) (by simp)
      simpa using dropFdatRead_discards
        (s := abandonFrame { s with mismatch := mismatchBefore bit s + 1 }) hr
  | holdGap f hl hf hn => exact fdatReadFits_kept h (hgap _ hf) rfl rfl rfl id id
  | holdIntrusion hl hf =>
    exact fdatReadFits_kept h (hgap _ hf) (by simp) (by simp) (by simp) (by simp) (by simp)
  | holdLimit late hl hf => exact fdatReadFits_kept h (hlisten hl) rfl rfl rfl id id
  | restAfterGap late hl hf => exact fdatReadFits_kept h (hlisten hl) rfl rfl rfl id id
  | restAfterSearch n hl hf => exact fdatReadFits_kept h (hlisten hl) rfl rfl rfl id id
  | idleAtRest hl hf => exact fdatReadFits_kept h (hlisten hl) rfl rfl rfl id id
  | idleInSearch n hl hf => exact fdatReadFits_kept h (hlisten hl) rfl rfl rfl id id
  | idleAfterGap late hl hf => exact fdatReadFits_kept h (hlisten hl) rfl rfl rfl id id
  | received frame slots n slot hf hl hd =>
    have hnd : ¬ FdatReadDue s := h.not_due (by simp [hlink.txFrame_none (by simp [hl])])
    rcases receiveWindow_items (judgeFrame s.groupBuffer frame) slot (windowReads slots) s with
      ⟨hi, hc⟩ | ⟨_, hc, item, hi⟩
    · exact fdatReadFits_kept h hnd (by simp) (by simp) (by simp) (by simp [hi])
        (Or.imp hc.isSome (by simp))
    · exact fdatReadFits_kept h hnd (by simp) (by simp) (by simp) (by simp [hi]) (by simp [hc])
  | sent tx f slots n slot hf hl ht hc hd =>
    obtain ⟨_, _, hq⟩ := hlink.sending_station ht
    have hitem : s.items ≠ [] → (senderWindow tx f slot (windowReads slots) s).items ≠ [] := by
      rcases senderWindow_items (tx := tx) hd hq with hi | ⟨_, item, hi⟩ <;> simp [hi]
    exact fdatReadFits_kept h (not_due_of_contents h ht hc) (by simp) (by simp) (by simp) hitem
      (by simp)
  | _ => simpa [FdatReadFits, FdatReadDue] using h

/-- The arbiter grants only what waits (R13). -/
theorem settle_fdatReadFits {s : State} (h : FdatReadFits s) : FdatReadFits (settle s) := by
  by_cases hg : s.running = none ∧ ∃ g, nextGrant s = some g
  · obtain ⟨hr, g, hg⟩ := hg
    obtain ⟨_, hclear, happly, hread⟩ := nextGrant_claim hg
    obtain ⟨_, _, hdue, _⟩ := h
    rw [settle_of_nextGrant hr hg]
    refine ⟨fun ha => happly (by simpa using ha), fun hc => Or.inl ?_, fun hd => hdue (Or.inl ?_),
      fun c hc _ => ?_⟩
    · exact Option.isSome_iff_exists.2 ⟨0, hclear (by simpa using hc)⟩
    · rcases hd with hd | ⟨c, hc, _⟩
      · by_contra hn
        simp [Option.not_isSome_iff_eq_none.1 hn] at hd
      · rw [hread c (by simpa using hc)]; rfl
    · have hgc : g = .fdatRead c := by simpa using hc
      simp [hgc, servesFdat]
  · have hs : settle s = s := by
      rcases Option.eq_none_or_eq_some s.running with hr | ⟨g, hr⟩
      · exact settle_of_no_claim (Option.eq_none_iff_forall_ne_some.2 fun g hn => hg ⟨hr, g, hn⟩)
      · exact settle_of_running (by rw [hr]; rfl)
    rw [hs]
    exact h

/-! ### The answer list (R109) -/

theorem answerListFits_empty {s : State} (h : s.answers = []) : AnswerListFits s := by
  simp [AnswerListFits, h]

theorem AnswerListFits.empty_of_not_inStep {s : State} (h : AnswerListFits s)
    (hs : s.station ≠ .inStep) : s.answers = [] := by
  obtain ⟨_, hne⟩ := h
  by_contra hn
  exact hs (hne hn).1

theorem command_answerListFits {s x : State} (h : AnswerListFits s) (hx : Command s x) :
    AnswerListFits x := by
  cases hx with
  | configure p hs hp => exact answerListFits_empty (h.empty_of_not_inStep (by simp [hs]))
  | start hs ht => exact answerListFits_empty (by simp)
  | leaveFaulted hs => exact answerListFits_empty (h.empty_of_not_inStep (by simp [hs]))
  | detach hs => exact answerListFits_empty (by simp)
  | reset => exact answerListFits_empty rfl
  | _ => simpa [AnswerListFits] using h

/-! ### Every step -/

/-- Replica, station, link, apply list, answers and FDAT read, all coherent. -/
structure Coherent (s : State) : Prop where
  zero : UnknownCellsZero s
  station : StationFollowsCells s
  link : LinkCoherent s
  list : ApplyListBounded s
  answers : AnswerListFits s
  read : FdatReadFits s

theorem command_coherent {s x : State} (h : Coherent s) (hx : Command s x) : Coherent x :=
  ⟨command_unknownCellsZero h.zero hx, command_stationFollowsCells h.station hx,
    command_linkCoherent h.link hx, command_applyListBounded h.list hx,
    command_answerListFits h.answers hx, command_fdatReadFits h.read hx⟩

theorem settle_coherent {s : State} (h : Coherent s) : Coherent (settle s) :=
  ⟨by simpa [UnknownCellsZero] using h.zero, settle_stationFollowsCells h.station,
    settle_linkCoherent h.link, by simpa [ApplyListBounded] using h.list,
    by simpa [AnswerListFits] using h.answers, settle_fdatReadFits h.read⟩

/-- What every step keeps, the answer list apart. -/
def ReplicaStationLink (s : State) : Prop :=
  UnknownCellsZero s ∧ StationFollowsCells s ∧ LinkCoherent s ∧ ApplyListBounded s ∧ FdatReadFits s

theorem row_replicaStationLink {s u : State} (h : Coherent s) (hu : Row s u) :
    ReplicaStationLink (settle u) :=
  ⟨by simpa [UnknownCellsZero] using row_unknownCellsZero h.zero hu,
    settle_stationFollowsCells (row_stationFollowsCells h.station h.link hu),
    settle_linkCoherent (row_linkCoherent h.station h.link hu),
    by simpa [ApplyListBounded] using row_applyListBounded h.link h.list hu,
    settle_fdatReadFits (row_fdatReadFits h.station h.link h.answers h.read hu)⟩

/-- Settles O58: each invariant is kept by every command, by every row and by the arbiter. -/
theorem stepKeepsReplicaStationAndLink : Obligations.StepKeepsReplicaStationAndLink := by
  intro s t hzero hstation hlink hlist hans hread hstep
  exact step_keeps (P := Coherent) (I := ReplicaStationLink)
    (fun _ h => ⟨h.zero, h.station, h.link, h.list, h.read⟩) (fun _ _ h => ⟨h.1, h.2, h.3, h.4, h.5, h.6⟩)
    (fun b _ => writeData_keeps (fun _ _ h => ⟨h.1, h.2, h.3, h.4, h.5, h.6⟩)
      (fun _ _ => command_coherent) b)
    (fun _ => settle_coherent) (fun _ _ => row_replicaStationLink)
    ⟨hzero, hstation, hlink, hlist, hans, hread⟩ hstep

end Sys2Proof.Machine
end

section
/-!
PROOF. The committed group, its results list and the held entries: what each operation on them keeps of
R9, R12, R21, R64, R91, R115, R119, R122, R125, R127 and R132. `GroupBounds` regroups these clauses by
what they speak of, so that an operation is looked at once.
-/
namespace Sys2Proof.Machine

/-! ### The clauses, regrouped -/

/-- The staging list of R119. -/
def StagingFits (s : State) : Prop := s.staging.length ≤ 8 ∧ EntriesLegal s.staging

/-- A committed group with its needed chunks, its records and its attempts (R91, R119, R132). -/
def GroupFits (s : State) (g : CommittedGroup) : Prop :=
  (1 ≤ g.entries.length ∧ g.entries.length ≤ 8 ∧ EntriesLegal g.entries)
    ∧ (g.state = .waitFill → s.needed = neededChunks s.table g.entries ∧ s.needed ≠ [])
    ∧ (g.state ≠ .waitFill → s.needed = [])
    ∧ s.results.records = List.replicate g.entries.length ResultRecord.notReached
    ∧ s.results.attempts = s.groupAttempts ∧ s.groupAttempts ≤ s.config.retryLimit.val

/-- The committed group fits, and without one no chunk is needed (R119). -/
def CommittedFits (s : State) : Prop :=
  (∀ g, s.committed = some g → GroupFits s g) ∧ (s.committed = none → s.needed = [])

/-- The results list and the own item that it waits for (R9, R12, R119, R127, R132). -/
def PendingFits (s : State) : Prop :=
  s.results.attempts ≤ 16 ∧ s.results.records.length ≤ 8
    ∧ (s.results.status = .pending ↔ s.committed.isSome = true ∨ s.applyPending = true)
    ∧ (s.committed.isSome = true → s.applyPending = false)
    ∧ (s.applyPending = true → 1 ≤ s.results.records.length
        ∧ ∀ r ∈ s.results.records, r = ResultRecord.notReached)
    ∧ ownGroupSizes s.items ++ s.discardedOwn.toList
        = (if s.applyPending then [s.results.records.length] else [])
    ∧ (s.discardedOwn.isSome = true → s.teardownPending = true)

/-- What is kept of the slots and lists around the committed group. -/
def ListsFit (s : State) : Prop :=
  SlotsNeedAttachment s ∧ StagingFits s ∧ PendingFits s ∧ HeldEntriesFit s

/-- All that is kept of the group, the results list, the seed slot and the held entries, the link apart. -/
def GroupBounds (s : State) : Prop := CommittedFits s ∧ ListsFit s

/-- The part of a state that `GroupBounds` speaks of. -/
structure GroupView where
  attached : Bool
  config : ConfigRecord
  table : Table
  items : List Item
  discardedOwn : Option Nat
  teardownPending : Bool
  staging : List Entry
  committed : Option CommittedGroup
  applyPending : Bool
  results : Results
  needed : List Chunk
  groupAttempts : Nat
  groupBuffer : Option OpenGroup
  seedSlot : Bool

def groupView (s : State) : GroupView :=
  { attached := isAttached s.station, config := s.config, table := s.table, items := s.items,
    discardedOwn := s.discardedOwn, teardownPending := s.teardownPending, staging := s.staging,
    committed := s.committed, applyPending := s.applyPending, results := s.results, needed := s.needed,
    groupAttempts := s.groupAttempts, groupBuffer := s.groupBuffer, seedSlot := s.seedSlot }

/-- States that agree on that part share their bounds. -/
theorem GroupBounds.congr {s u : State} (h : GroupBounds s) (hv : groupView u = groupView s) :
    GroupBounds u := by
  simp only [groupView, GroupView.mk.injEq] at hv
  simpa [GroupBounds, ListsFit, SlotsNeedAttachment, StagingFits, CommittedFits, GroupFits, PendingFits,
    HeldEntriesFit, hv] using h

theorem groupBounds_iff (s : State) : GroupBounds s ↔
    SlotsNeedAttachment s ∧ GroupsFit s ∧ HeldEntriesFit s ∧ ResultsFit s := by
  constructor
  · rintro ⟨⟨hfit, hnone⟩, hslots, ⟨hlen, hlegal⟩, ⟨h16, h8, hst, hnot, hap, hown, hdisc⟩, hheld⟩
    refine ⟨hslots, ⟨hlen, hlegal, fun g hg => ?_, hnone⟩, hheld, h16, h8, hst, fun g hg => ?_, hap,
      hown, hdisc⟩
    · obtain ⟨⟨h1, hle, hl⟩, hw, hnw, _⟩ := hfit g hg
      exact ⟨h1, hle, hl, hnot (by rw [hg]; rfl), hw, hnw⟩
    · obtain ⟨_, _, _, hr⟩ := hfit g hg
      exact hr
  · rintro ⟨hslots, ⟨hlen, hlegal, hfit, hnone⟩, hheld, h16, h8, hst, hres, hap, hown, hdisc⟩
    refine ⟨⟨fun g hg => ?_, hnone⟩, hslots, ⟨hlen, hlegal⟩, ⟨h16, h8, hst, fun hs => ?_, hap, hown,
      hdisc⟩, hheld⟩
    · obtain ⟨h1, hle, hl, _, hw, hnw⟩ := hfit g hg
      exact ⟨⟨h1, hle, hl⟩, hw, hnw, hres g hg⟩
    · obtain ⟨g, hg⟩ := Option.isSome_iff_exists.1 hs
      obtain ⟨_, _, _, hnot, _⟩ := hfit g hg
      exact hnot

/-! ### The seed slot and the held entries -/

/-- A slot or a group that may have been emptied, at a station that stays where it is. -/
theorem slotsNeedAttachment_shrunk {s u : State} (h : SlotsNeedAttachment s)
    (hst : isAttached u.station = isAttached s.station) (hc : u.config = s.config)
    (hseed : u.seedSlot = true → s.seedSlot = true)
    (hg : u.committed.isSome = true → s.committed.isSome = true) : SlotsNeedAttachment u := by
  intro hu
  rw [hst, hc]
  exact h (hu.imp hseed hg)

theorem slotsNeedAttachment_empty {s : State} (hs : s.seedSlot = false) (hg : s.committed = none) :
    SlotsNeedAttachment s := by
  intro h
  rw [hs, hg] at h
  simp at h

/-- Items and open group that may have been taken away. -/
theorem heldEntriesFit_shrunk {s u : State} (h : HeldEntriesFit s)
    (hb : u.groupBuffer = s.groupBuffer ∨ u.groupBuffer = none)
    (hi : ∀ g, Item.group g ∈ u.items → Item.group g ∈ s.items) : HeldEntriesFit u := by
  obtain ⟨hopen, hitems⟩ := h
  refine ⟨fun o ho => ?_, fun g hg => hitems g (hi g hg)⟩
  rcases hb with hb | hb <;> rw [hb] at ho
  · exact hopen o ho
  · cases ho

/-! ### The committed group, operation by operation (R91, R119, R125, R127) -/

theorem committedFits_none {s : State} (hc : s.committed = none) (hn : s.needed = []) :
    CommittedFits s := by
  refine ⟨fun g hg => ?_, fun _ => hn⟩
  rw [hc] at hg
  cases hg

/-- The end of a committed group by one of the statuses of Table 7-3 other than PENDING. -/
theorem groupBounds_dropCommitted {status : GroupStatus} {s : State} (h : ListsFit s)
    (hg : s.committed.isSome = true) (hs : status ≠ .pending) :
    GroupBounds (dropCommitted status s) := by
  obtain ⟨hslots, hstage, ⟨h16, h8, _, hnot, _, hown, hdisc⟩, hheld⟩ := h
  have hap := hnot hg
  refine ⟨committedFits_none rfl rfl, slotsNeedAttachment_shrunk hslots rfl rfl id (by simp), hstage,
    ⟨h16, h8, ?_, by simp, ?_, ?_, hdisc⟩, hheld⟩
  · simp [hs, hap]
  · simp [hap]
  · simpa [hap] using hown

theorem groupBounds_endCommitted {status : GroupStatus} {s : State} (h : ListsFit s)
    (hg : s.committed.isSome = true) (hs : status ≠ .pending) :
    GroupBounds (endCommitted status s) := by
  exact (groupBounds_dropCommitted h hg hs).congr (by simp [groupView])

/-- A group that does not wait for fill needs no chunk (R119). -/
theorem needed_nil_of_not_waits {s : State} (h : CommittedFits s) (hw : ¬ Waits s) : s.needed = [] := by
  obtain ⟨hfit, hnone⟩ := h
  cases hg : s.committed with
  | none => exact hnone hg
  | some g =>
    obtain ⟨_, _, hn, _⟩ := hfit g hg
    exact hn fun hst => hw ⟨g, hg, hst⟩

theorem groupBounds_setGroupState {st : GroupState} {s : State} (h : GroupBounds s) (hw : ¬ Waits s)
    (hst : st ≠ .waitFill) : GroupBounds (setGroupState st s) := by
  obtain ⟨hcom, hslots, hstage, hpend, hheld⟩ := h
  have hn := needed_nil_of_not_waits hcom hw
  obtain ⟨hfit, hnone⟩ := hcom
  refine ⟨⟨fun g hg => ?_, fun _ => hn⟩, by simpa [SlotsNeedAttachment] using hslots, hstage,
    by simpa [PendingFits] using hpend, hheld⟩
  obtain ⟨g', hg', rfl⟩ := Option.map_eq_some_iff.1 hg
  obtain ⟨hlen, _, _, hr⟩ := hfit g' hg'
  exact ⟨hlen, fun hc => absurd hc hst, fun _ => hn, hr⟩

/-- A state whose committed group has one more attempt counted (R91). -/
def attemptCounted (s : State) : State :=
  { s with
    groupAttempts := s.groupAttempts + 1
    results := { s.results with attempts := s.groupAttempts + 1 } }

theorem countGroup_of_none {s : State} (hg : s.committed = none) : countGroup s = s := by
  unfold countGroup
  rw [hg]

/-- A counted attempt leaves the group in BACKOFF within its retry limit, or ends it (R91). -/
theorem countGroup_cases {s : State} (hg : s.committed.isSome = true) :
    (s.config.retryLimit.val < s.groupAttempts + 1
      ∧ countGroup s = endCommitted .rejected (attemptCounted s))
    ∨ (s.groupAttempts + 1 ≤ s.config.retryLimit.val
      ∧ countGroup s = setGroupState .backoff { attemptCounted s with
          groupTimer := some (backoffTb s.config (s.groupAttempts + 1)) }) := by
  unfold countGroup
  split
  · next hn => simp [hn] at hg
  · by_cases hx : s.groupAttempts + 1 > s.config.retryLimit.val
    · exact Or.inl ⟨hx, by simp [exhausts, hx, attemptCounted]⟩
    · exact Or.inr ⟨Nat.le_of_not_lt hx, by simp [exhausts, hx, attemptCounted]⟩

theorem listsFit_attemptCounted {s : State} (h : ListsFit s) (hn : s.groupAttempts + 1 ≤ 16) :
    ListsFit (attemptCounted s) := by
  obtain ⟨hslots, hstage, ⟨_, hrest⟩, hheld⟩ := h
  exact ⟨hslots, hstage, ⟨hn, hrest⟩, hheld⟩

theorem groupBounds_countGroup {s : State} (h : GroupBounds s) (hw : ¬ Waits s) :
    GroupBounds (countGroup s) := by
  cases hg : s.committed with
  | none => rw [countGroup_of_none hg]; exact h
  | some g =>
    obtain ⟨hcom, hlists⟩ := h
    obtain ⟨hfit, hnone⟩ := hcom
    obtain ⟨hlen, hwait, hn, hrec, _, hle⟩ := hfit g hg
    have hlimit := s.config.retryLimit.isLt
    have hcounted := listsFit_attemptCounted hlists (by omega)
    rcases countGroup_cases (s := s) (by simp [hg]) with ⟨_, he⟩ | ⟨hin, he⟩ <;> rw [he]
    · exact groupBounds_endCommitted hcounted (by simp [attemptCounted, hg]) (by simp)
    · refine groupBounds_setGroupState ⟨⟨fun g' hg' => ?_, hnone⟩, hcounted⟩ hw (by simp)
      have hgg : g = g' := Option.some.inj (hg.symm.trans hg')
      subst hgg
      exact ⟨hlen, hwait, hn, hrec, rfl, hin⟩

/-- A state whose chunk's fill has failed, the group apart (R108). -/
def fillFailed (c : Chunk) (s : State) : State :=
  latchCause .fillFail (BitVec.ofNat 8 c.val) (setRequests (withoutChunk s.requests c) s)

/-- A chunk whose fill failed ends a group that waits for it, and no other (R108, R125). -/
theorem failChunk_cases (c : Chunk) (s : State) :
    (Waits s ∧ failChunk c s = endCommitted .fillFailed (fillFailed c s))
    ∨ failChunk c s = fillFailed c s := by
  unfold failChunk
  dsimp only
  split
  · next g hg =>
    split_ifs with hw
    · exact Or.inl ⟨⟨g, by simpa using hg, hw.1⟩, rfl⟩
    · exact Or.inr rfl
  · exact Or.inr rfl

theorem groupBounds_fillFailed {s : State} (h : GroupBounds s) (c : Chunk) :
    GroupBounds (fillFailed c s) := by
  exact h.congr (by simp [groupView, fillFailed])

theorem groupBounds_failChunk {s : State} (h : GroupBounds s) (c : Chunk) :
    GroupBounds (failChunk c s) := by
  have hf := groupBounds_fillFailed h c
  rcases failChunk_cases c s with ⟨⟨g, hg, _⟩, he⟩ | he <;> rw [he]
  · exact groupBounds_endCommitted hf.2 (by simp [fillFailed, hg]) (by simp)
  · exact hf

/-! ### A counted attempt of any own frame (R91, R105, R110, R117) -/

theorem groupBounds_countRequest {s : State} (h : GroupBounds s) (c : Chunk) :
    GroupBounds (countRequest c s) := by
  unfold countRequest
  split
  · exact h
  · dsimp only
    split_ifs
    · exact groupBounds_failChunk h c
    · exact h

theorem groupBounds_emptySeedSlot {s : State} (h : GroupBounds s) (c : Code) :
    GroupBounds (emptySeedSlot c s) := by
  obtain ⟨hcom, hslots, hrest⟩ := h
  refine ⟨by simpa [CommittedFits, GroupFits] using hcom,
    slotsNeedAttachment_shrunk hslots (by simp) (by simp) (by simp) (by simp), ?_⟩
  simpa [StagingFits, PendingFits, HeldEntriesFit] using hrest

theorem groupBounds_countSeed {s : State} (h : GroupBounds s) : GroupBounds (countSeed s) := by
  unfold countSeed
  dsimp only
  split_ifs
  · exact groupBounds_emptySeedSlot (s := { s with seedAttempts := s.seedAttempts + 1 }) h _
  · exact h

theorem groupBounds_countAttempt {body : TxBody} {s : State} (h : GroupBounds s)
    (hw : ∀ e, body = .upd e → ¬ Waits s) : GroupBounds (countAttempt body s) := by
  cases body with
  | seed => exact groupBounds_countSeed h
  | freq c => exact groupBounds_countRequest h c
  | upd e => exact groupBounds_countGroup h (hw e rfl)
  | fdat c =>
    exact h.congr (by simp [groupView, countAttempt])

/-! ### The status report (R97, R125) -/

/-- The chunks needed are still there where no cell has become KNOWN. -/
theorem neededChunks_of_noGain {a b : Table} (h : NoGain a b) {entries : List Entry}
    (hn : neededChunks a entries ≠ []) : neededChunks b entries ≠ [] := by
  obtain ⟨c, hc⟩ := List.exists_mem_of_ne_nil _ hn
  obtain ⟨e, he, i, hi, hci, hk⟩ := (mem_neededChunks a entries c).1 hc
  refine List.ne_nil_of_mem ((mem_neededChunks b entries c).2 ⟨e, he, i, hi, hci, ?_⟩)
  rw [← Bool.not_eq_true] at hk ⊢
  exact fun hb => hk (h i hb)

theorem neededChunks_congr {a b : Table} (h : ∀ i, (cellAt a i).known = (cellAt b i).known)
    (entries : List Entry) : neededChunks a entries = neededChunks b entries := by
  unfold neededChunks
  simp only [h]

/-- The two tables of a report that finds nothing lost and nothing gained have the same statuses. -/
theorem known_eq_of_quiet {a b : Table} (hl : lostChunks a b = []) (hg : anyGained a b = false)
    (i : Byte) : (cellAt a i).known = (cellAt b i).known := by
  have hloss := (lostChunks_eq_nil a b).1 hl i
  cases ha : (cellAt a i).known with
  | true => exact (hloss ha).symm
  | false =>
    by_contra hb
    have hgain := (anyGained_iff a b).2 ⟨i, ha, by simpa using Ne.symm hb⟩
    rw [hg] at hgain
    cases hgain

/-- Nothing is lost where no cell becomes UNKNOWN. -/
theorem lostChunks_of_noLoss {a b : Table} (h : NoLoss a b) : lostChunks a b = [] :=
  (lostChunks_eq_nil a b).2 h

/-- A report leaves a group that does not wait as it is (R125). -/
theorem report_committed_not_waiting {before : Table} {s : State}
    (h : CommittedFits { s with table := before }) (hw : ¬ Waits s) :
    CommittedFits (reportStatus before s) := by
  obtain ⟨hfit, hnone⟩ := h
  obtain ⟨hc, hn⟩ := report_not_waiting (before := before) hw
  rw [CommittedFits, hc, hn]
  refine ⟨fun g hg => ?_, hnone⟩
  obtain ⟨hlen, _, hnw, hr⟩ := hfit g hg
  have hst : g.state ≠ .waitFill := fun hst => hw ⟨g, hg, hst⟩
  exact ⟨hlen, fun hc => absurd hc hst, fun _ => hn.trans (hnw hst), by simpa using hr⟩

/-- A report gives a group that waits the chunks it still needs, and queues it when it needs none
(R125). -/
theorem report_committed_waiting {before : Table} {s : State} {g : CommittedGroup}
    (h : CommittedFits { s with table := before }) (hg : s.committed = some g)
    (hst : g.state = .waitFill) (ht : NoGain before s.table ∨ NoLoss before s.table) :
    CommittedFits (reportStatus before s) := by
  obtain ⟨hfit, _⟩ := h
  obtain ⟨hlen, hwait, _, hr⟩ := hfit g hg
  obtain ⟨hneed, hne⟩ := hwait hst
  have hsomeone : ∀ g' : CommittedGroup, (reportStatus before s).committed = some g' →
      GroupFits (reportStatus before s) g' → CommittedFits (reportStatus before s) :=
    fun g' hg' hf => ⟨fun g'' hg'' => by cases hg'.symm.trans hg''; exact hf,
      fun hn => by rw [hg'] at hn; cases hn⟩
  by_cases hq : lostChunks before s.table = [] ∧ anyGained before s.table = false
  · have hsame := neededChunks_congr (known_eq_of_quiet hq.1 hq.2) g.entries
    rw [reportStatus_quiet hq.1 hq.2] at hsomeone ⊢
    exact hsomeone g hg ⟨hlen, fun _ => ⟨hneed.trans hsame, hne⟩, fun hc => absurd hst hc, hr⟩
  · obtain ⟨hn, hc⟩ := report_waiting hg hst (before := before) (by
      rw [not_and_or, Bool.not_eq_false] at hq
      exact hq)
    split_ifs at hc with hnil
    · exact hsomeone _ hc ⟨hlen, by simp, fun _ => hn.trans hnil.2, by simpa using hr⟩
    · refine hsomeone _ hc ⟨hlen, fun _ => ⟨by simpa using hn, ?_⟩, fun hc => absurd hst hc,
        by simpa using hr⟩
      rw [hn]
      rcases ht with ht | ht
      · exact neededChunks_of_noGain ht (hneed ▸ hne)
      · exact fun hnone => hnil ⟨lostChunks_of_noLoss ht, hnone⟩

theorem committedFits_reportStatus {before : Table} {s : State}
    (h : CommittedFits { s with table := before })
    (ht : NoGain before s.table ∨ NoLoss before s.table) : CommittedFits (reportStatus before s) := by
  by_cases hw : Waits s
  · obtain ⟨g, hg, hst⟩ := hw
    exact report_committed_waiting h hg hst ht
  · exact report_committed_not_waiting h hw

/-- A report neither ends nor commits a group. -/
theorem report_committed_isSome (before : Table) (s : State) :
    (reportStatus before s).committed.isSome = s.committed.isSome := by
  by_cases hw : Waits s
  · obtain ⟨g, hg, hst⟩ := hw
    by_cases hq : lostChunks before s.table = [] ∧ anyGained before s.table = false
    · rw [reportStatus_quiet hq.1 hq.2]; rfl
    · rw [not_and_or, Bool.not_eq_false] at hq
      rw [(report_waiting hg hst hq).2, hg]; rfl
  · rw [(report_not_waiting hw).1]

theorem groupBounds_reportStatus {before : Table} {s : State}
    (h : GroupBounds { s with table := before })
    (ht : NoGain before s.table ∨ NoLoss before s.table) : GroupBounds (reportStatus before s) := by
  obtain ⟨hcom, hslots, hstage, hpend, hheld⟩ := h
  have hsome := report_committed_isSome before s
  exact ⟨committedFits_reportStatus hcom ht, by simpa [SlotsNeedAttachment, hsome] using hslots,
    by simpa [StagingFits] using hstage, by simpa [PendingFits, hsome] using hpend,
    by simpa [HeldEntriesFit] using hheld⟩

end Sys2Proof.Machine
end

section
/-!
PROOF. The committed group, its results list and the held entries, through the line's end, the grants and
the windows (R8, R9, R12, R21, R81, R82, R127, R132).
-/
namespace Sys2Proof.Machine

/-! ### The own items of a list (R9, R12) -/

theorem ownGroupSizes_append (a b : List Item) :
    ownGroupSizes (a ++ b) = ownGroupSizes a ++ ownGroupSizes b := List.filterMap_append

theorem ownEntryCount_eq_head (l : List Item) : ownEntryCount l = (ownGroupSizes l).head? :=
  List.head?_filterMap.symm

theorem itemsUnderGrant_append_itemsDiscarded (s : State) :
    itemsUnderGrant s ++ itemsDiscarded s = s.items := by
  unfold itemsUnderGrant itemsDiscarded
  split
  · exact List.take_append_drop 1 s.items
  · rfl

/-- Of a list with at most one own group, the size discarded is the one that does not stay (R12). -/
theorem ownGroupSizes_split {s : State} (h : (ownGroupSizes s.items).length ≤ 1) :
    ownGroupSizes (itemsUnderGrant s) ++ (ownEntryCount (itemsDiscarded s)).toList
      = ownGroupSizes s.items := by
  have hsplit : ownGroupSizes s.items
      = ownGroupSizes (itemsUnderGrant s) ++ ownGroupSizes (itemsDiscarded s) := by
    rw [← ownGroupSizes_append, itemsUnderGrant_append_itemsDiscarded]
  rw [hsplit, List.length_append] at h
  rw [hsplit, ownEntryCount_eq_head]
  congr 1
  match hd : ownGroupSizes (itemsDiscarded s) with
  | [] => rfl
  | [n] => rfl
  | _ :: _ :: _ => rw [hd] at h; simp only [List.length_cons] at h; omega

/-- There is at most one own group, and none when none is apply-pending (R9, R127). -/
theorem PendingFits.sizes_le {s : State} (h : PendingFits s) : (ownGroupSizes s.items).length ≤ 1 := by
  obtain ⟨_, _, _, _, _, hown, _⟩ := h
  calc (ownGroupSizes s.items).length
      ≤ (ownGroupSizes s.items ++ s.discardedOwn.toList).length := by simp
    _ ≤ 1 := by rw [hown]; split <;> simp

/-! ### Leaving the line and attaching (R12, R98, R101) -/

/-- The group that a station leaving the line has committed is dropped (R101, R127). -/
theorem leaveLine_group (st : StationState) (s : State) :
    (leaveLine st s).results
        = (if s.committed.isSome then { s.results with status := .dropped } else s.results)
    ∧ (leaveLine st s).needed = if s.committed.isSome then [] else s.needed := by
  unfold leaveLine dropGroup
  cases hg : s.committed <;> simp [hg]

theorem groupBounds_leaveLine {s u : State} (h : GroupBounds s) (st : StationState)
    (hd : s.discardedOwn = none) (hu : u = leaveLine st s) : GroupBounds u := by
  obtain ⟨⟨_, hnone⟩, _, hstage, hpend, hheld⟩ := h
  have hsizes := ownGroupSizes_split hpend.sizes_le
  obtain ⟨h16, h8, hst, hnot, hap, hown, _⟩ := hpend
  obtain ⟨hres, hneed⟩ := leaveLine_group st s
  subst hu
  have hitems : ∀ g, Item.group g ∈ (leaveLine st s).items → Item.group g ∈ s.items := fun g hg => by
    rw [← itemsUnderGrant_append_itemsDiscarded s]
    exact List.mem_append_left _ (by simpa using hg)
  refine ⟨committedFits_none (by simp) ?_, slotsNeedAttachment_empty (by simp) (by simp),
    by simpa [StagingFits] using hstage, ?_,
    heldEntriesFit_shrunk hheld (Or.inr (by simp)) hitems⟩
  · rw [hneed]
    cases hg : s.committed with
    | none => simpa using hnone hg
    | some g => rfl
  · have hrecords : (leaveLine st s).results.records = s.results.records := by
      rw [hres]; split <;> rfl
    have hattempts : (leaveLine st s).results.attempts = s.results.attempts := by
      rw [hres]; split <;> rfl
    have hstatus : (leaveLine st s).results.status = .pending ↔ s.applyPending = true := by
      rw [hres]
      cases hg : s.committed with
      | none => simpa [hg] using hst
      | some g => simpa using hnot (by rw [hg]; rfl)
    refine ⟨hattempts ▸ h16, hrecords ▸ h8, by simpa using hstatus, by simp, ?_, ?_, by simp⟩
    · simpa [hrecords] using hap
    · simpa [hrecords, hsizes, hd] using hown

/-- A station off the line has no slot filled and no group (R64, R122). -/
theorem SlotsNeedAttachment.empty {s : State} (h : SlotsNeedAttachment s)
    (ho : isAttached s.station = false) : s.seedSlot = false ∧ s.committed = none := by
  rw [← Bool.not_eq_true, ← Option.not_isSome_iff_eq_none, ← not_or]
  intro hs
  rw [(h hs).1] at ho
  cases ho

/-- A state that has no group and no seed slot, with lists as they were. -/
theorem groupBounds_offLine {s u : State} (h : GroupBounds s) (ho : isAttached s.station = false)
    (hc : u.committed = s.committed) (hn : u.needed = s.needed)
    (hseed : u.seedSlot = true → s.seedSlot = true) (hst : u.staging = s.staging)
    (hr : u.results = s.results) (ha : u.applyPending = s.applyPending) (hi : u.items = s.items)
    (hd : u.discardedOwn = s.discardedOwn) (ht : u.teardownPending = s.teardownPending)
    (hb : u.groupBuffer = s.groupBuffer ∨ u.groupBuffer = none) : GroupBounds u := by
  obtain ⟨⟨_, hnone⟩, hslots, hstage, hpend, hheld⟩ := h
  obtain ⟨hs, hg⟩ := hslots.empty ho
  refine ⟨committedFits_none (hc.trans hg) (hn.trans (hnone hg)),
    slotsNeedAttachment_empty (by simpa [hs] using hseed) (hc.trans hg), ?_, ?_,
    heldEntriesFit_shrunk hheld hb (by simp [hi])⟩
  · simpa [StagingFits, hst] using hstage
  · simpa [PendingFits, hc, hr, ha, hi, hd, ht] using hpend

theorem groupBounds_attach {s : State} (h : GroupBounds s) (ho : isAttached s.station = false) :
    GroupBounds (attach s) :=
  groupBounds_offLine h ho (by simp) (by simp) (by simp) (by simp) (by simp) (by simp) (by simp)
    (by simp) (by simp) (by simp)

/-! ### The grants (R10 to R12) -/

/-- The head item removed, when it is no own group. -/
theorem groupBounds_removed {s : State} {item : Item} {rest : List Item} (h : GroupBounds s)
    (hi : s.items = item :: rest) (ho : ownGroupSizes [item] = []) :
    GroupBounds { s with items := s.items.tail } := by
  obtain ⟨hcom, hslots, hstage, hpend, hheld⟩ := h
  obtain ⟨h16, h8, hst, hnot, hap, hown, hdisc⟩ := hpend
  have hsizes : ownGroupSizes s.items = ownGroupSizes s.items.tail := by
    rw [hi, List.tail_cons, ← List.singleton_append, ownGroupSizes_append, ho, List.nil_append]
  exact ⟨hcom, hslots, hstage, ⟨h16, h8, hst, hnot, hap, hsizes ▸ hown, hdisc⟩,
    heldEntriesFit_shrunk hheld (Or.inl rfl) fun g => List.mem_of_mem_tail⟩

theorem length_runEntries (sender : Station) (prev : Option EntryOutcome) (es : List Entry)
    (t : Table) : (runEntries sender prev es t).2.length = es.length := by
  induction es generalizing prev t with
  | nil => rfl
  | cons e es ih => simp [runEntries, ih]

theorem length_runStrictEntries (sender : Station) (prev : Option EntryOutcome) (es : List Entry)
    (t : Table) : (runStrictEntries sender prev es t).2.2.length = es.length := by
  induction es generalizing prev t with
  | nil => rfl
  | cons e es ih =>
    simp only [runStrictEntries]
    split <;> simp [ih]

/-- A group's evaluation writes one record per entry (R35, R36). -/
theorem length_evaluateGroup_records (g : GroupItem) (t : Table) :
    (evaluateGroup g t).records.length = g.entries.length := by
  unfold evaluateGroup
  split
  · rw [← length_runStrictEntries g.sender none g.entries t]
    unfold runStrict
    dsimp only
    split <;> rfl
  · exact length_runEntries _ _ _ _

/-- An own group under its grant is the apply-pending one, and no group is committed (R9, R127). -/
theorem PendingFits.own_head {s : State} {g : GroupItem} {rest : List Item} (h : PendingFits s)
    (hi : s.items = .group g :: rest) (ho : g.own = true) :
    s.applyPending = true ∧ s.committed = none ∧ s.discardedOwn = none ∧ ownGroupSizes rest = []
      ∧ g.entries.length = s.results.records.length := by
  obtain ⟨_, _, _, hnot, _, hown, _⟩ := h
  have hsizes : ownGroupSizes s.items = g.entries.length :: ownGroupSizes rest := by
    rw [hi]; simp [ownGroupSizes, ho]
  rw [hsizes] at hown
  split at hown
  · next ha =>
    obtain ⟨hlen, hrest, hdisc⟩ : g.entries.length = s.results.records.length
        ∧ ownGroupSizes rest = [] ∧ s.discardedOwn = none := by simpa using hown
    refine ⟨ha, ?_, hdisc, hrest, hlen⟩
    rw [← Option.not_isSome_iff_eq_none]
    intro hs
    rw [hnot hs] at ha
    cases ha
  · cases hown

theorem applyGroup_own {g : GroupItem} (ho : g.own = true) (s : State) :
    (applyGroup g s).results = { s.results with
        status := (evaluateGroup g s.table).status, records := (evaluateGroup g s.table).records }
    ∧ (applyGroup g s).applyPending = false
    ∧ (s.committed = none → (applyGroup g s).committed = none ∧ (applyGroup g s).needed = s.needed) := by
  refine ⟨by simp [applyGroup, ho], by simp [applyGroup, ho], fun hg => ?_⟩
  obtain ⟨hc, hn⟩ := report_not_waiting (before := s.table)
    (s := endGrant (removeHead (writeResults (evaluateGroup g s.table).status
      (evaluateGroup g s.table).records (latchHits (evaluateGroup g s.table).hits
        { s with table := (evaluateGroup g s.table).table })))) (by simp [Waits, hg])
  exact ⟨by simpa [applyGroup, ho, hg] using hc, by simpa [applyGroup, ho] using hn⟩

theorem groupBounds_applyGroup_own {s : State} {g : GroupItem} {rest : List Item} (h : GroupBounds s)
    (hi : s.items = .group g :: rest) (ho : g.own = true) : GroupBounds (applyGroup g s) := by
  obtain ⟨⟨_, hnone⟩, hslots, hstage, hpend, hheld⟩ := h
  obtain ⟨_, hc, hdisc, hrest, hlen⟩ := hpend.own_head hi ho
  obtain ⟨h16, h8, _⟩ := hpend
  obtain ⟨hres, hap, hcom⟩ := applyGroup_own ho s
  obtain ⟨huc, hun⟩ := hcom hc
  have hstatus : (evaluateGroup g s.table).status ≠ .pending := by
    rcases evaluateGroup_status g s.table with h | h | h <;> simp [h]
  refine ⟨committedFits_none huc (hun.trans (hnone hc)),
    slotsNeedAttachment_shrunk hslots (by simp) (by simp) (by simp) (by simp [huc]),
    by simpa [StagingFits] using hstage, ?_,
    heldEntriesFit_shrunk hheld (Or.inl (by simp)) fun g' hg' => List.mem_of_mem_tail (by simpa using hg')⟩
  refine ⟨hres ▸ h16, ?_, ?_, fun _ => hap, fun hc => ?_, ?_, ?_⟩
  · rw [hres, length_evaluateGroup_records, hlen]; exact h8
  · simp [hres, hstatus, huc, hap]
  · rw [hap] at hc; cases hc
  · simp [hap, hi, hrest, hdisc]
  · simp [hdisc]

theorem groupBounds_applyGroup {s : State} {g : GroupItem} {rest : List Item} (h : GroupBounds s)
    (hi : s.items = .group g :: rest) : GroupBounds (applyGroup g s) := by
  cases ho : g.own with
  | true => exact groupBounds_applyGroup_own h hi ho
  | false =>
    have hu : applyGroup g s = reportStatus s.table (endGrant (removeHead
        (latchHits (evaluateGroup g s.table).hits
          { s with table := (evaluateGroup g s.table).table }))) := by simp [applyGroup, ho]
    rw [hu]
    refine groupBounds_reportStatus ?_ (Or.inl (by simpa using (evaluateGroup_keeps g s.table).1))
    exact (groupBounds_removed h hi (by simp [ownGroupSizes, ho])).congr (by simp [groupView])

theorem groupBounds_applyFdat {s : State} {c : Chunk} {d : ChunkData} {rest : List Item}
    (h : GroupBounds s) (hi : s.items = .fdat c d :: rest) : GroupBounds (applyFdat c d s) := by
  have hrem := groupBounds_removed h hi rfl
  unfold applyFdat
  dsimp only
  split
  all_goals
    refine groupBounds_reportStatus ?_ (Or.inr (by simpa using noLoss_adoptChunk s.table c d))
    exact hrem.congr (by simp [groupView])

theorem groupBounds_applySeed {s : State} {rest : List Item} (h : GroupBounds s)
    (hi : s.items = .seed :: rest) : GroupBounds (applySeed s) :=
  groupBounds_reportStatus (groupBounds_removed h hi rfl) (Or.inr (noLoss_seedAll s.table))

theorem groupBounds_runClear {s : State} (h : GroupBounds s) : GroupBounds (runClear s) := by
  refine groupBounds_reportStatus ?_ (Or.inl (by simpa using noGain_clearAll s.table))
  exact h.congr (by simp [groupView])

/-- The teardown's grant ends the own group that it discarded (R12). -/
theorem pendingFits_finishDiscarded {s : State} (h : PendingFits { s with teardownPending := true })
    (hc : s.committed = none) : PendingFits (finishDiscarded s) := by
  obtain ⟨h16, h8, hst, hnot, hap, hown, _⟩ := h
  cases hd : s.discardedOwn with
  | none =>
    rw [finishDiscarded_none hd]
    exact ⟨h16, h8, hst, hnot, hap, hown, by simp [hd]⟩
  | some n =>
    have hpend : s.applyPending = true := by
      by_contra hp
      simp [hp, hd] at hown
    have hnil : ownGroupSizes s.items = [] ∧ n = s.results.records.length := by
      simp only [hd, hpend, if_true, Option.toList_some] at hown
      have hlen := congrArg List.length hown
      simp only [List.length_append, List.length_singleton] at hlen
      have hempty := List.eq_nil_of_length_eq_zero (Nat.add_right_cancel (m := 1) (k := 0) (by omega) :
        (ownGroupSizes s.items).length = 0)
      simpa [hempty] using hown
    obtain ⟨hempty, hn⟩ := hnil
    rw [finishDiscarded_some hd]
    refine ⟨h16, ?_, ?_, ?_, ?_, ?_, ?_⟩ <;> simp_all [withCause]

/-- The teardown's grant commits no group. -/
theorem teardownEnded_group {s : State} (hg : s.committed = none) :
    (teardownEnded s).committed = none ∧ (teardownEnded s).needed = s.needed := by
  obtain ⟨hc, hn⟩ := report_not_waiting (before := s.table)
    (s := endGrant { s with table := clearAll s.table, teardownPending := false }) (by simp [Waits, hg])
  exact ⟨by simpa [teardownEnded, hg] using hc, by simpa [teardownEnded] using hn⟩

theorem groupBounds_teardownEnded {s : State} (h : GroupBounds s) (ho : isAttached s.station = false) :
    GroupBounds (teardownEnded s) := by
  obtain ⟨⟨_, hnone⟩, hslots, hstage, hpend, hheld⟩ := h
  obtain ⟨hs, hg⟩ := hslots.empty ho
  obtain ⟨hcom, hneed⟩ := teardownEnded_group hg
  have hc : (reportStatus s.table (endGrant { s with
      table := clearAll s.table, teardownPending := false })).committed = none := by
    simpa [teardownEnded] using hcom
  refine ⟨committedFits_none hcom (hneed.trans (hnone hg)),
    slotsNeedAttachment_empty (by simpa using hs) hcom, by simpa [StagingFits] using hstage, ?_,
    by simpa [HeldEntriesFit] using hheld⟩
  have hfin := pendingFits_finishDiscarded (s := reportStatus s.table
    (endGrant { s with table := clearAll s.table, teardownPending := false })) (by
      obtain ⟨h16, h8, hst, hnot, hap, hown, _⟩ := hpend
      rw [PendingFits, hc, ← hg]
      exact ⟨by simpa using h16, by simpa using h8, by simpa using hst, by simpa using hnot,
        by simpa using hap, by simpa using hown, by simp⟩)
    hc
  simpa [PendingFits, teardownEnded] using hfin

end Sys2Proof.Machine
end

section
/-!
PROOF. The committed group, its results list and the held entries, command by command, window by window
and row by row (R21, R54, R81, R82, R122, R123, R127).
-/
namespace Sys2Proof.Machine

/-! ### Entries appended (R21) -/

theorem entriesLegal_nil : EntriesLegal [] := fun k e h => by simp at h

theorem entriesLegal_append {l : List Entry} {e : Entry} (h : EntriesLegal l)
    (he : entryLegal l.length e = true) : EntriesLegal (l ++ [e]) := by
  intro k x hx
  rcases Nat.lt_or_ge k l.length with hk | hk
  · rw [List.getElem?_append_left hk] at hx
    exact h k x hx
  · rw [List.getElem?_append_right hk, List.getElem?_singleton] at hx
    split at hx
    · next hz =>
      cases hx
      rwa [show k = l.length by omega]
    · cases hx

/-- The entry of a sound UPD frame is legal behind the entries held, and the frame with index 7 is the
last one (R21, R53, R54). -/
theorem judgeFrame_upd {o : Option OpenGroup} {frame : RawFrame} {f : Frame} {e : Entry}
    (h : judgeFrame o frame = .sound f) (hb : f.body = .upd e) :
    entryLegal (heldEntries o).length e = true ∧ (f.last = false → (heldEntries o).length < 7) := by
  unfold judgeFrame at h
  split at h
  · cases h
  · next body hp =>
    split_ifs at h with hc
    obtain rfl := Verdict.sound.inj h
    subst hb
    obtain ⟨⟨hhead, hexp⟩, _⟩ : (headerFits frame = true ∧ expectationMet o frame = true)
      ∧ checkMatches frame = true := by simpa using hc
    obtain ⟨hkind, hlegal⟩ : kindOfH1 frame.h1 = .upd
        ∧ entryLegal (h1Index frame.h1).toNat e = true := by
      unfold payloadBody at hp
      split at hp
      · cases hp
      · simp at hp
      · split at hp <;> simp at hp
      · next hk =>
        dsimp only at hp
        split_ifs at hp with hl
        cases hp
        exact ⟨hk, hl⟩
    have hlen : (heldEntries o).length = (h1Index frame.h1).toNat := by
      unfold expectationMet at hexp
      cases o with
      | none =>
        have hz : h1Index frame.h1 = 0 := by simpa using hexp
        rw [hz]; rfl
      | some g =>
        simp only [Bool.and_eq_true, beq_iff_eq] at hexp
        exact hexp.1.1.2.symm
    refine ⟨hlen ▸ hlegal, fun hlast => ?_⟩
    have hindex : h1Index frame.h1 ≠ 7 := fun h7 => by
      simp [headerFits, hkind, h7, show h1Last frame.h1 = false from hlast] at hhead
    have hlt := (h1Index frame.h1).isLt
    have hne : (h1Index frame.h1).toNat ≠ 7 := fun h7 => hindex (BitVec.eq_of_toNat_eq h7)
    omega

/-- The entries held are at most 7, each legal at its index (R81). -/
theorem HeldEntriesFit.held {s : State} (h : HeldEntriesFit s) :
    (heldEntries s.groupBuffer).length ≤ 7 ∧ EntriesLegal (heldEntries s.groupBuffer) := by
  obtain ⟨hopen, _⟩ := h
  cases hb : s.groupBuffer with
  | none => exact ⟨Nat.zero_le _, entriesLegal_nil⟩
  | some o =>
    obtain ⟨_, hle, hl⟩ := hopen o hb
    exact ⟨hle, hl⟩

/-! ### Items appended (R8, R81, R82, R127) -/

theorem groupBounds_closed {s : State} (h : GroupBounds s) :
    GroupBounds { s with groupBuffer := none } := by
  obtain ⟨hcom, hslots, hstage, hpend, hheld⟩ := h
  exact ⟨hcom, hslots, hstage, hpend, heldEntriesFit_shrunk hheld (Or.inr rfl) fun _ => id⟩

theorem ownGroupSizes_own {g : GroupItem} (h : g.own = true) :
    ownGroupSizes [.group g] = [g.entries.length] := by simp [ownGroupSizes, h]

/-- An item appended that is no own group. -/
theorem groupBounds_appendItem {s : State} {item : Item} (h : GroupBounds s)
    (ho : ownGroupSizes [item] = [])
    (he : ∀ g, item = .group g →
      1 ≤ g.entries.length ∧ g.entries.length ≤ 8 ∧ EntriesLegal g.entries) :
    GroupBounds (appendItem item s) := by
  obtain ⟨hcom, hslots, hstage, ⟨h16, h8, hst, hnot, hap, hown, hdisc⟩, hopen, hitems⟩ := h
  refine ⟨hcom, hslots, hstage, ⟨h16, h8, hst, hnot, hap, ?_, hdisc⟩, hopen, fun g hg => ?_⟩
  · simpa [ownGroupSizes_append, ho] using hown
  · rcases List.mem_append.1 hg with hg | hg
    · exact hitems g hg
    · exact he g (List.mem_singleton.1 hg).symm

theorem acceptUpd_last {f : Frame} (hl : f.last = true) (e : Entry) (s : State) :
    acceptUpd f e s = appendItem (groupItem s f e) { s with groupBuffer := none } := by
  unfold acceptUpd groupItem heldEntries
  cases s.groupBuffer <;> simp [hl]

theorem acceptUpd_held {f : Frame} (hl : f.last = false) (e : Entry) (s : State) :
    acceptUpd f e s = { s with
      groupBuffer :=
        some ⟨frameKey .upd f.sender, f.strict, heldEntries s.groupBuffer ++ [e]⟩ } := by
  unfold acceptUpd heldEntries
  cases s.groupBuffer <;> simp [hl]

/-- A sound entry is held, or completes a group of 1 to 8 (R81, R82). -/
theorem groupBounds_acceptUpd {s : State} {f : Frame} {e : Entry} (h : GroupBounds s)
    (hlegal : entryLegal (heldEntries s.groupBuffer).length e = true)
    (hlen : f.last = false → (heldEntries s.groupBuffer).length < 7) :
    GroupBounds (acceptUpd f e s) := by
  obtain ⟨hcom, hslots, hstage, hpend, hheld⟩ := id h
  obtain ⟨hle, hl⟩ := hheld.held
  have hall := entriesLegal_append hl hlegal
  cases hlast : f.last with
  | true =>
    rw [acceptUpd_last hlast]
    refine groupBounds_appendItem (groupBounds_closed h) rfl fun g hg => ?_
    cases hg
    exact ⟨by simp, by simpa using Nat.succ_le_succ hle, hall⟩
  | false =>
    rw [acceptUpd_held hlast]
    refine ⟨hcom, hslots, hstage, hpend, fun o ho => ?_, hheld.2⟩
    cases ho
    exact ⟨by simp, by simpa using hlen hlast, hall⟩

/-- An accepted frame of another (R81 to R84). -/
theorem groupBounds_acceptFrame {s : State} {f : Frame} (h : GroupBounds s)
    (hf : ∀ e, f.body = .upd e → entryLegal (heldEntries s.groupBuffer).length e = true
      ∧ (f.last = false → (heldEntries s.groupBuffer).length < 7)) : GroupBounds (acceptFrame f s) := by
  unfold acceptFrame
  cases hb : f.body with
  | upd e =>
    obtain ⟨hlegal, hlen⟩ := hf e hb
    exact groupBounds_acceptUpd h hlegal hlen
  | freq c =>
    exact h.congr (by simp [groupView])
  | fdat c d =>
    exact (groupBounds_appendItem (item := .fdat c d) h rfl (by simp)).congr (by simp [groupView])
  | seed =>
    refine groupBounds_emptySeedSlot ?_ _
    exact (groupBounds_appendItem (item := .seed) h rfl (by simp)).congr (by simp [groupView])

theorem groupBounds_loseStep {s : State} (h : GroupBounds s) : GroupBounds (loseStep s) := by
  unfold loseStep
  dsimp only
  split
  · exact (groupBounds_closed h).congr (by simp [groupView])
  · exact groupBounds_closed h

/-- The receive side of a window (R80 to R84, R92). -/
theorem groupBounds_receiveWindow {s : State} (h : GroupBounds s) (frame : RawFrame)
    (slot : SlotChoice) (o : WindowOutcome) :
    GroupBounds (receiveWindow (judgeFrame s.groupBuffer frame) slot o s) := by
  unfold receiveWindow
  cases o with
  | rejected => exact groupBounds_closed h
  | accepted =>
    dsimp only [receiveAccepted]
    cases hv : judgeFrame s.groupBuffer frame with
    | faulty => exact groupBounds_loseStep h
    | sound f =>
      dsimp only
      split
      · exact groupBounds_loseStep h
      · exact groupBounds_acceptFrame h fun e he => judgeFrame_upd hv he
  | unheard =>
    dsimp only [receiveUnheard]
    cases hv : judgeFrame s.groupBuffer frame with
    | faulty => exact groupBounds_loseStep h
    | sound f =>
      dsimp only
      split
      · exact groupBounds_loseStep h
      · cases hb : f.body with
        | upd e =>
          obtain ⟨hlegal, hlen⟩ := judgeFrame_upd hv hb
          exact groupBounds_acceptUpd h hlegal hlen
        | freq c => exact h
        | fdat c d => exact h
        | seed => exact h

/-! ### The own frame's window (R69, R70, R127) -/

/-- The committed group becomes the apply-pending one, with an own item of its entries (R9, R127). -/
theorem groupBounds_ownGroupAccepted {s : State} (h : GroupBounds s) (hw : ¬ Waits s) (f : Frame) :
    GroupBounds (ownGroupAccepted f s) := by
  obtain ⟨hcom, hslots, hstage, ⟨h16, h8, hst, hnot, hap, hown, hdisc⟩, hopen, hitems⟩ := id h
  have hn := needed_nil_of_not_waits hcom hw
  unfold ownGroupAccepted
  split
  · next g hg =>
    obtain ⟨hfit, _⟩ := hcom
    obtain ⟨hlen, _, _, hrec, _⟩ := hfit g hg
    obtain ⟨h1, _, _⟩ := id hlen
    have hfalse := hnot (by rw [hg]; rfl)
    obtain ⟨hnil, hdn⟩ : ownGroupSizes s.items = [] ∧ s.discardedOwn = none := by
      simpa [hfalse] using hown
    refine ⟨committedFits_none rfl hn, slotsNeedAttachment_shrunk hslots rfl rfl id (by simp), hstage,
      ⟨h16, h8, ?_, by simp, fun _ => ?_, ?_, hdisc⟩, hopen, fun g' hg' => ?_⟩
    · simpa [hg] using hst
    · simpa [hrec] using h1
    · simp [ownGroupSizes_append, hnil, hdn, hrec, ownGroupSizes_own]
    · rcases List.mem_append.1 hg' with hg' | hg'
      · exact hitems g' hg'
      · cases List.mem_singleton.1 hg'
        exact hlen
  · exact h

/-- An own frame that counts as accepted. -/
theorem groupBounds_ownAccepted {s : State} {f : Frame} (h : GroupBounds s)
    (hw : ∀ e, f.body = .upd e → ¬ Waits s) : GroupBounds (ownAccepted f s) := by
  unfold ownAccepted
  cases hb : f.body with
  | upd e =>
    dsimp only
    split
    · exact groupBounds_ownGroupAccepted (s := { s with txFrame := none }) h (hw e hb) f
    · exact h
  | freq c =>
    exact h.congr (by simp [groupView])
  | fdat c d =>
    exact (groupBounds_appendItem (item := .fdat c d) h rfl (by simp)).congr (by simp [groupView])
  | seed =>
    refine groupBounds_emptySeedSlot ?_ _
    exact (groupBounds_appendItem (item := .seed) h rfl (by simp)).congr (by simp [groupView])

/-- An own frame and its contents are of the same kind (R68). -/
theorem txContents_upd {tx : TxFrame} {copy : Option ChunkData} {f : Frame}
    (h : txContents tx copy = some f) (e : Entry) : f.body = .upd e ↔ tx.body = .upd e := by
  unfold txContents at h
  cases hb : tx.body with
  | fdat c =>
    obtain ⟨d, _, rfl⟩ := Option.map_eq_some_iff.1 (by simpa only [hb] using h)
    simp
  | seed => rw [hb] at h; cases h; simp
  | freq c => rw [hb] at h; cases h; simp
  | upd e' => rw [hb] at h; cases h; simp

theorem groupBounds_senderWindow {s : State} {tx : TxFrame} {f : Frame} (h : GroupBounds s)
    (hc : txContents tx s.fdatCopy = some f) (hw : ∀ e, tx.body = .upd e → ¬ Waits s)
    (slot : SlotChoice) (o : WindowOutcome) : GroupBounds (senderWindow tx f slot o s) := by
  have hb : GroupBounds { s with groupBuffer := if o = .rejected then none else s.groupBuffer } := by
    split
    · exact groupBounds_closed h
    · exact h
  unfold senderWindow
  dsimp only
  split
  · refine groupBounds_ownAccepted hb fun e he => ?_
    exact hw e ((txContents_upd hc e).1 he)
  · exact groupBounds_countAttempt hb hw

/-! ### Commands (R120 to R128) -/

/-- What an accepted COMMIT had before it (R123). -/
theorem commit_premises {strict : Byte} {s : State} (h : commitRefusal strict s = none) :
    isAttached s.station = true ∧ s.config.quiet = false ∧ s.staging ≠ [] ∧ s.committed = none
      ∧ s.applyPending = false := by
  unfold commitRefusal at h
  split_ifs at h
  simp_all

/-- The group that a COMMIT makes of the staging list (R122, R124). -/
def committedOf (strict : Byte) (s : State) : CommittedGroup :=
  { entries := s.staging, strict := strict == 1,
    state := if s.config.impliedFill && !s.staging.all (namedKnown s.table) then .waitFill
      else .queued }

theorem acceptCommit_group (strict : Byte) (s : State) :
    (acceptCommit strict s).committed = some (committedOf strict s)
    ∧ (acceptCommit strict s).results
        = ⟨.pending, 0, List.replicate s.staging.length ResultRecord.notReached⟩
    ∧ (acceptCommit strict s).needed
      = if (committedOf strict s).state = .waitFill then neededChunks s.table s.staging else [] := by
  unfold acceptCommit committedOf
  dsimp only
  split <;> simp [*]

/-- A list with an unknown named cell needs a chunk (R124). -/
theorem neededChunks_ne_nil {t : Table} {entries : List Entry}
    (h : entries.all (namedKnown t) = false) : neededChunks t entries ≠ [] := by
  obtain ⟨e, he, hk⟩ := List.all_eq_false.1 h
  rw [namedKnown_iff] at hk
  simp only [not_forall, Bool.not_eq_true] at hk
  obtain ⟨i, hi, hik⟩ := hk
  exact List.ne_nil_of_mem ((mem_neededChunks t entries _).2 ⟨e, he, i, hi, rfl, hik⟩)

theorem groupBounds_acceptCommit {strict : Byte} {s : State} (h : GroupBounds s)
    (hr : commitRefusal strict s = none) : GroupBounds (acceptCommit strict s) := by
  obtain ⟨ha, hq, hne, hg, hap⟩ := commit_premises hr
  obtain ⟨_, _, ⟨hlen, hlegal⟩, ⟨_, _, _, _, _, hown, hdisc⟩, hheld⟩ := h
  obtain ⟨hc, hres, hneed⟩ := acceptCommit_group strict s
  have hpos : 1 ≤ s.staging.length := List.length_pos_of_ne_nil hne
  refine ⟨⟨fun g hg => ?_, by simp [hc]⟩, fun _ => by simp [ha, hq], ⟨by simp, ?_⟩, ?_,
    by simpa [HeldEntriesFit] using hheld⟩
  · cases hc.symm.trans hg
    refine ⟨⟨hpos, hlen, hlegal⟩, fun hst => ?_, fun hst => by rw [hneed, if_neg hst],
      by rw [hres]; rfl, by rw [hres]; simp, by simp⟩
    rw [hneed, if_pos hst]
    refine ⟨by simp [committedOf], neededChunks_ne_nil ?_⟩
    by_contra hall
    rw [Bool.not_eq_false] at hall
    simp [committedOf, hall] at hst
  · simpa using entriesLegal_nil
  · refine ⟨by simp [hres], by simpa [hres] using hlen, by simp [hres, hc], by simp [hap],
      by simp [hap], by simpa [hap] using hown, by simpa using hdisc⟩

theorem groupBounds_of_initial {s : State} (hc : s.committed = none) (hn : s.needed = [])
    (hseed : s.seedSlot = false) (hs : s.staging = []) (hr : s.results = .initial)
    (hap : s.applyPending = false) (hi : s.items = []) (hd : s.discardedOwn = none)
    (hb : s.groupBuffer = none) : GroupBounds s := by
  refine ⟨committedFits_none hc hn, slotsNeedAttachment_empty hseed hc,
    ⟨by simp [hs], hs ▸ entriesLegal_nil⟩, ?_, ?_⟩
  · simp [PendingFits, hr, Results.initial, hc, hap, hi, hd, ownGroupSizes]
  · simp [HeldEntriesFit, hb, hi]

/-- An attached station has no discarded group of its own (R12). -/
theorem discardedOwn_none {s : State} (hst : StationFollowsCells s) (h : GroupBounds s)
    (ha : isAttached s.station = true) : s.discardedOwn = none := by
  obtain ⟨_, _, _, hatt, _⟩ := hst
  obtain ⟨_, _, _, ⟨_, _, _, _, _, _, hdisc⟩, _⟩ := h
  rw [hatt ha] at hdisc
  exact Option.not_isSome_iff_eq_none.1 fun hd => absurd (hdisc hd) (by simp)

theorem command_groupBounds {s x : State} (hst : StationFollowsCells s) (h : GroupBounds s)
    (hx : Command s x) : GroupBounds x := by
  obtain ⟨hcom, hslots, hstage, hpend, hheld⟩ := id h
  cases hx with
  | configure p hs hp =>
    exact groupBounds_offLine h (by rw [hs]; rfl) rfl rfl id rfl rfl rfl rfl rfl rfl (Or.inl rfl)
  | start hs ht => exact groupBounds_attach h hs
  | leaveFaulted hs =>
    exact groupBounds_offLine h (by rw [hs]; rfl) rfl rfl id rfl rfl rfl rfl rfl rfl (Or.inl rfl)
  | detach hs => exact groupBounds_leaveLine h .offline (discardedOwn_none hst h hs) rfl
  | reset => exact groupBounds_of_initial rfl rfl rfl rfl rfl rfl rfl rfl rfl
  | stage e hl he =>
    obtain ⟨_, hlegal⟩ := hstage
    exact ⟨hcom, hslots, ⟨by simpa using hl, entriesLegal_append hlegal he⟩, hpend, hheld⟩
  | unstage => exact ⟨hcom, hslots, ⟨Nat.zero_le _, entriesLegal_nil⟩, hpend, hheld⟩
  | commit strict hr => exact groupBounds_acceptCommit h hr
  | withdraw g hg hs => exact groupBounds_dropCommitted h.2 (by simp [hg]) (by simp)
  | seed hs hq => exact ⟨hcom, fun _ => ⟨hs, hq⟩, hstage, hpend, hheld⟩
  | _ =>
    exact h.congr (by simp [groupView])

end Sys2Proof.Machine
end

section
/-!
PROOF. The committed group's state and the link (R62, R70, R77, Table 4-7), and with it what every step
keeps of the committed group.
-/
namespace Sys2Proof.Machine

/-! ### The group's state against the own frame on the line -/

/-- No own UPD is on the line. -/
def NoUpd (s : State) : Prop := ∀ f e, s.txFrame = some f → f.body ≠ .upd e

theorem noUpd_of_none {s : State} (h : s.txFrame = none) : NoUpd s := fun f e hf => by
  rw [h] at hf; cases hf

/-- With no own UPD on the line the group is neither contending nor sending. -/
theorem groupFollowsLink_noUpd {s : State} (hn : NoUpd s) (hl : s.link = .holding → s.txFrame = none)
    (hs : ∀ g, s.committed = some g → g.state ≠ .contending ∧ g.state ≠ .sending)
    (ht : s.groupTimer.isSome = true ↔ ∃ g, s.committed = some g ∧ g.state = .backoff) :
    GroupFollowsLink s := by
  refine ⟨fun f e hf hb => absurd hb (hn f e hf), fun g hg hst => ?_, ht, fun f hlink hf => ?_⟩
  · rcases hst with hst | hst
    · exact absurd hst (hs g hg).1
    · exact absurd hst (hs g hg).2
  · rw [hl hlink] at hf; cases hf

theorem groupFollowsLink_empty {s : State} (hx : s.txFrame = none) (hc : s.committed = none)
    (ht : s.groupTimer = none) : GroupFollowsLink s :=
  groupFollowsLink_noUpd (noUpd_of_none hx) (fun _ => hx) (by simp [hc]) (by simp [hc, ht])

/-- An own UPD on the line, of the committed group. -/
theorem groupFollowsLink_ownUpd {s : State} {f : TxFrame} {e : Entry} {g : CommittedGroup}
    (hx : s.txFrame = some f) (hb : f.body = .upd e) (hg : s.committed = some g)
    (hs : g.state = if s.link = .contending then .contending else .sending)
    (ht : s.groupTimer = none) : GroupFollowsLink s := by
  have hback : g.state ≠ .backoff := by rw [hs]; split <;> simp
  refine ⟨fun _ _ _ _ => ⟨g, hg, hs⟩, fun _ _ _ => ⟨f, e, hx, hb⟩, ?_, fun f' _ hf' => ⟨e, ?_⟩⟩
  · simp [ht, hg, hback]
  · rw [hx] at hf'; cases hf'; exact hb

theorem GroupFollowsLink.holding_none {s : State} (h : GroupFollowsLink s) (hn : NoUpd s)
    (hl : s.link = .holding) : s.txFrame = none := by
  obtain ⟨_, _, _, hhold⟩ := h
  refine Option.eq_none_iff_forall_ne_some.2 fun f hf => ?_
  obtain ⟨e, he⟩ := hhold f hl hf
  exact hn f e hf he

theorem GroupFollowsLink.not_onLine {s : State} (h : GroupFollowsLink s) (hn : NoUpd s)
    {g : CommittedGroup} (hg : s.committed = some g) : g.state ≠ .contending ∧ g.state ≠ .sending := by
  obtain ⟨_, honline, _, _⟩ := h
  rw [← not_or]
  intro hst
  obtain ⟨f, e, hf, he⟩ := honline g hg hst
  exact hn f e hf he

/-- A group in no state of an own frame on the line has none there. -/
theorem GroupFollowsLink.noUpd {s : State} (h : GroupFollowsLink s)
    (hs : ∀ g, s.committed = some g → g.state ≠ .contending ∧ g.state ≠ .sending) : NoUpd s := by
  obtain ⟨hupd, _⟩ := h
  intro f e hf hb
  obtain ⟨g, hg, hst⟩ := hupd f e hf hb
  split at hst
  · exact (hs g hg).1 hst
  · exact (hs g hg).2 hst

theorem GroupFollowsLink.timer_none {s : State} (h : GroupFollowsLink s)
    (hs : ∀ g, s.committed = some g → g.state ≠ .backoff) : s.groupTimer = none := by
  obtain ⟨_, _, htimer, _⟩ := h
  rw [← Option.not_isSome_iff_eq_none, htimer]
  rintro ⟨g, hg, hst⟩
  exact hs g hg hst

/-- The committed group of an own UPD on the line (R77). -/
theorem GroupFollowsLink.group {s : State} {f : TxFrame} {e : Entry} (h : GroupFollowsLink s)
    (ht : s.txFrame = some f) (hb : f.body = .upd e) :
    ∃ g, s.committed = some g ∧ (g.state = if s.link = .contending then .contending else .sending)
      ∧ s.groupTimer = none := by
  obtain ⟨hupd, _⟩ := id h
  obtain ⟨g, hg, hst⟩ := hupd f e ht hb
  refine ⟨g, hg, hst, h.timer_none fun g' hg' => ?_⟩
  cases hg.symm.trans hg'
  rw [hst]
  split <;> simp

theorem not_waits_of_state {s : State} {g : CommittedGroup} (hg : s.committed = some g)
    (hs : g.state ≠ .waitFill) : ¬ Waits s := by
  rintro ⟨g', hg', hw⟩
  cases hg.symm.trans hg'
  exact hs hw

theorem GroupFollowsLink.not_waits {s : State} {f : TxFrame} {e : Entry} (h : GroupFollowsLink s)
    (ht : s.txFrame = some f) (hb : f.body = .upd e) : ¬ Waits s := by
  obtain ⟨g, hg, hst, _⟩ := h.group ht hb
  exact not_waits_of_state hg (by rw [hst]; split <;> simp)

/-- The group as it was, while frames of other kinds come and go. -/
theorem groupFollowsLink_otherFrame {s u : State} (h : GroupFollowsLink s) (hn : NoUpd s)
    (hun : NoUpd u) (hl : u.link = .holding → u.txFrame = none) (hc : u.committed = s.committed)
    (ht : u.groupTimer = s.groupTimer) : GroupFollowsLink u := by
  obtain ⟨_, _, htimer, _⟩ := id h
  refine groupFollowsLink_noUpd hun hl (fun g hg => h.not_onLine hn (hc ▸ hg)) ?_
  rw [ht, hc]
  exact htimer

/-- A group that waited for fill and still waits, is queued, or has ended (R125). -/
theorem groupFollowsLink_waited {s u : State} (h : GroupFollowsLink s) (hw : Waits s)
    (hl : u.link = s.link) (hx : u.txFrame = s.txFrame)
    (ht : u.groupTimer = s.groupTimer ∨ u.groupTimer = none)
    (hc : ∀ g, u.committed = some g → g.state = .waitFill ∨ g.state = .queued) :
    GroupFollowsLink u := by
  obtain ⟨g, hg, hst⟩ := hw
  have hstate : ∀ g', s.committed = some g' → g'.state = .waitFill := fun g' hg' => by
    cases hg.symm.trans hg'; exact hst
  have hn : NoUpd s := h.noUpd fun g' hg' => by simp [hstate g' hg']
  have htimer : s.groupTimer = none := h.timer_none fun g' hg' => by simp [hstate g' hg']
  have hu : u.groupTimer = none := ht.elim (fun ht => ht.trans htimer) id
  refine groupFollowsLink_noUpd (by simpa [NoUpd, hx] using hn) (fun hh => ?_) (fun g' hg' => ?_) ?_
  · rw [hx]; exact h.holding_none hn (hl ▸ hh)
  · rcases hc g' hg' with hs | hs <;> simp [hs]
  · rw [hu]
    refine ⟨fun hn => absurd hn (by simp), fun ⟨g', hg', hb⟩ => ?_⟩
    rcases hc g' hg' with hs | hs <;> rw [hb] at hs <;> cases hs

/-! ### Operations (R91, R108, R125) -/

theorem groupFollowsLink_reportStatus {s : State} (h : GroupFollowsLink s) (before : Table) :
    GroupFollowsLink (reportStatus before s) := by
  by_cases hw : Waits s
  · refine groupFollowsLink_waited h hw (by simp) (by simp) (Or.inl (by simp)) fun g' hg' => ?_
    obtain ⟨g, hg, hst⟩ := hw
    by_cases hq : lostChunks before s.table = [] ∧ anyGained before s.table = false
    · rw [reportStatus_quiet hq.1 hq.2] at hg'
      cases hg.symm.trans hg'
      exact Or.inl hst
    · rw [not_and_or, Bool.not_eq_false] at hq
      rw [(report_waiting hg hst hq).2] at hg'
      split at hg' <;> cases hg'
      · exact Or.inr rfl
      · exact Or.inl hst
  · simpa [GroupFollowsLink, (report_not_waiting (before := before) hw).1] using h

theorem groupFollowsLink_failChunk {s : State} (h : GroupFollowsLink s) (c : Chunk) :
    GroupFollowsLink (failChunk c s) := by
  rcases failChunk_cases c s with ⟨hw, he⟩ | he <;> rw [he]
  · exact groupFollowsLink_waited h hw (by simp [fillFailed]) (by simp [fillFailed])
      (Or.inr (by simp)) (by simp)
  · simpa [GroupFollowsLink, fillFailed] using h

theorem groupFollowsLink_countRequest {s : State} (h : GroupFollowsLink s) (c : Chunk) :
    GroupFollowsLink (countRequest c s) := by
  unfold countRequest
  split
  · exact h
  · dsimp only
    split_ifs
    · exact groupFollowsLink_failChunk h c
    · exact h

/-- A group whose attempt is counted is in BACKOFF with its timer running, or has ended (R77, R91). -/
theorem groupFollowsLink_countGroup {s : State} (hx : s.txFrame = none)
    (hg : s.committed.isSome = true) : GroupFollowsLink (countGroup s) := by
  obtain ⟨g, hg'⟩ := Option.isSome_iff_exists.1 hg
  rcases countGroup_cases hg with ⟨_, he⟩ | ⟨_, he⟩ <;> rw [he]
  · exact groupFollowsLink_empty (by simpa [attemptCounted] using hx) (by simp) (by simp)
  · refine groupFollowsLink_noUpd (noUpd_of_none (by simpa [attemptCounted] using hx))
      (fun _ => by simpa [attemptCounted] using hx) ?_ ?_ <;>
      simp [attemptCounted, hg']

/-- A counted attempt of a frame that has left the line. -/
theorem groupFollowsLink_countAttempt {body : TxBody} {s : State} (hx : s.txFrame = none)
    (hupd : ∀ e, body = .upd e → s.committed.isSome = true)
    (hother : (∀ e, body ≠ .upd e) → GroupFollowsLink s) : GroupFollowsLink (countAttempt body s) := by
  cases body with
  | seed => simpa [GroupFollowsLink, countAttempt] using hother (by simp)
  | freq c => exact groupFollowsLink_countRequest (hother (by simp)) c
  | upd e => exact groupFollowsLink_countGroup hx (hupd e rfl)
  | fdat c => simpa [GroupFollowsLink, countAttempt] using hother (by simp)

/-- An own frame that is counted as it leaves the line, whatever else changes (R73, R89). -/
theorem groupFollowsLink_stopped {s u : State} {f : TxFrame} (h : GroupFollowsLink s)
    (ht : s.txFrame = some f) (hx : u.txFrame = none) (hc : u.committed = s.committed)
    (htu : u.groupTimer = s.groupTimer) : GroupFollowsLink (countAttempt f.body u) := by
  refine groupFollowsLink_countAttempt hx (fun e he => ?_) fun hne => ?_
  · obtain ⟨g, hg, _⟩ := h.group ht he
    rw [hc, hg]; rfl
  · refine groupFollowsLink_otherFrame h (fun f' e hf' => ?_) (noUpd_of_none hx) (fun _ => hx) hc htu
    cases ht.symm.trans hf'
    exact hne e

/-! ### Frames of the candidate slots (R63, R67) -/

theorem groupFrame_upd {s : State} {g : CommittedGroup} {k : Nat} {f : TxFrame}
    (h : groupFrame s g k = some f) : ∃ e, f.body = .upd e := by
  obtain ⟨e, _, rfl⟩ := Option.map_eq_some_iff.1 h
  exact ⟨e, rfl⟩

theorem slotFrame_upd {s : State} {slot : CandidateSlot} {f : TxFrame} {e : Entry}
    (h : slotFrame s slot = some f) (hb : f.body = .upd e) : slot = .group := by
  cases slot with
  | seed => cases h; cases hb
  | request => obtain ⟨c, _, rfl⟩ := Option.map_eq_some_iff.1 h; cases hb
  | group => rfl
  | answer => obtain ⟨c, _, rfl⟩ := Option.map_eq_some_iff.1 h; cases hb

/-- An eligible group is QUEUED with no timer running (R63). -/
theorem queued_of_eligible {s : State} (h : eligible s .group = true) :
    ∃ g, s.committed = some g ∧ g.state = .queued ∧ s.groupTimer = none := by
  obtain ⟨hq, ht⟩ : groupQueued s = true ∧ s.groupTimer = none := by
    simp only [eligible, Bool.and_eq_true, Option.isNone_iff_eq_none] at h
    exact ⟨h.2.1.1, h.2.1.2⟩
  obtain ⟨g, hg, hst⟩ := Option.map_eq_some_iff.1 (by simpa [groupQueued] using hq)
  exact ⟨g, hg, hst, ht⟩

/-- Does the own frame carry an entry of the group? -/
theorem body_upd_or (b : TxBody) : (∃ e, b = .upd e) ∨ ∀ e, b ≠ .upd e := by
  cases b <;> simp

theorem startSlot_upd {f : TxFrame} {e : Entry} (hb : f.body = .upd e) (s : State) :
    startSlot f s = setGroupState .contending s := by unfold startSlot; rw [hb]

theorem startSlot_committed {f : TxFrame} (hb : ∀ e, f.body ≠ .upd e) (s : State) :
    (startSlot f s).committed = s.committed := by
  unfold startSlot
  cases h : f.body with
  | upd e => exact absurd h (hb e)
  | seed => rfl
  | freq c => rfl
  | fdat c => rfl

theorem loseSlot_upd (e : Entry) (s : State) : loseSlot (.upd e) s = setGroupState .queued s := rfl

theorem loseSlot_other {b : TxBody} (hb : ∀ e, b ≠ .upd e) (s : State) : loseSlot b s = s := by
  cases b with
  | upd e => exact absurd rfl (hb e)
  | seed => rfl
  | freq c => rfl
  | fdat c => rfl

theorem winKey_upd {f : TxFrame} {e : Entry} (hb : f.body = .upd e) (s : State) :
    winKey f s = setGroupState .sending { s with link := .sending, txd := keyLevels (txKey f) } := by
  unfold winKey; rw [hb]

theorem winKey_other {f : TxFrame} (hb : ∀ e, f.body ≠ .upd e) (s : State) :
    winKey f s = { s with link := .sending, txd := keyLevels (txKey f) } := by
  unfold winKey
  cases h : f.body with
  | upd e => exact absurd h (hb e)
  | seed => rfl
  | freq c => rfl
  | fdat c => rfl

end Sys2Proof.Machine
end

section
/-!
PROOF. What every command and every row keeps of the committed group, and with it of every step.
-/
namespace Sys2Proof.Machine

/-! ### The bounds, row by row -/

theorem groupBounds_stopFrame {s : State} {f : TxFrame} (hst : StationFollowsCells s)
    (hlink : LinkCoherent s) (h : GroupBounds s) (hf : GroupFollowsLink s) (ht : s.txFrame = some f)
    (bit : MismatchBit) : GroupBounds (stopFrame bit f s) := by
  obtain ⟨_, ha, _⟩ := hlink.sending_station ht
  by_cases hn : 4 ≤ mismatchBefore bit s + 1
  · rw [stopFrame_faulted hn]
    have hleft := groupBounds_leaveLine (s := { s with mismatch := Config.faultMismatches }) h .faulted
      (discardedOwn_none hst h ha) rfl
    exact hleft.congr (by simp [groupView, enterFaulted])
  · rw [stopFrame_counted hn]
    have hcount := groupBounds_countAttempt (body := f.body)
      (s := dropFdatRead (abandonFrame { s with mismatch := mismatchBefore bit s + 1 }))
      (h.congr (by simp [groupView]))
      (fun e he => by simpa [Waits] using hf.not_waits ht he)
    exact hcount.congr (by simp [groupView])

theorem groupBounds_contentionStart {s : State} {slot : CandidateSlot} {f : TxFrame}
    (h : GroupBounds s) (he : eligible s slot = true) (hs : slotFrame s slot = some f) :
    GroupBounds (beginContention f s) := by
  have hdriven : GroupBounds (driveStartMark .contending f s) := h
  unfold beginContention
  rcases body_upd_or f.body with ⟨e, hb⟩ | hb
  · obtain rfl := slotFrame_upd hs hb
    obtain ⟨g, hg, hst, _⟩ := queued_of_eligible he
    rw [startSlot_upd hb]
    exact groupBounds_setGroupState hdriven (not_waits_of_state hg (by simp [hst])) (by simp)
  · exact hdriven.congr (by simp [groupView, startSlot_committed hb])

theorem groupBounds_loseKey {s : State} {f : TxFrame} (h : GroupBounds s) (hf : GroupFollowsLink s)
    (ht : s.txFrame = some f) (k : Fin 7) : GroupBounds (loseKey k f s) := by
  unfold loseKey
  generalize hv : dropFdatRead _ = v
  have hvb : GroupBounds v := by
    subst hv
    exact h.congr (by simp [groupView])
  have hvc : v.committed = s.committed := by simp [← hv]
  rcases body_upd_or f.body with ⟨e, hb⟩ | hb
  · rw [hb, loseSlot_upd]
    exact groupBounds_setGroupState hvb (by simpa [Waits, hvc] using hf.not_waits ht hb) (by simp)
  · rw [loseSlot_other hb]
    exact hvb

theorem groupBounds_winKey {s : State} {f : TxFrame} (h : GroupBounds s) (hf : GroupFollowsLink s)
    (ht : s.txFrame = some f) : GroupBounds (winKey f s) := by
  rcases body_upd_or f.body with ⟨e, hb⟩ | hb
  · rw [winKey_upd hb]
    exact groupBounds_setGroupState (s := { s with link := .sending, txd := keyLevels (txKey f) }) h
      (hf.not_waits ht hb) (by simp)
  · rw [winKey_other hb]
    exact h

theorem groupBounds_expireBackoff {s : State} {slot : CandidateSlot} (h : GroupBounds s)
    (hf : GroupFollowsLink s) (hb : backoffRuns s slot = true) : GroupBounds (expireBackoff slot s) := by
  cases slot with
  | group =>
    obtain ⟨_, _, htimer, _⟩ := hf
    obtain ⟨g, hg, hst⟩ := htimer.1 hb
    exact groupBounds_setGroupState (s := { s with groupTimer := none }) h
      (not_waits_of_state hg (by simp [hst])) (by simp)
  | seed => exact h
  | request => exact h
  | answer => exact h

theorem groupBounds_expireFill {s : State} (h : GroupBounds s) (r : Request) :
    GroupBounds (expireFill r s) := by
  unfold expireFill
  dsimp only
  split
  · exact groupBounds_failChunk h _
  · exact h

/-- A station that holds in the gap has a committed group, which is being sent (R70, R77). -/
theorem GroupFollowsLink.holding_group {s : State} (h : GroupFollowsLink s) (hlink : LinkCoherent s)
    (hl : s.link = .holding) :
    ∃ g, s.committed = some g ∧ g.state = .sending ∧ s.groupTimer = none := by
  obtain ⟨_, _, _, _, htx, _⟩ := hlink
  obtain ⟨f, ht⟩ := Option.isSome_iff_exists.1 (htx.2 (Or.inr (Or.inr hl)))
  obtain ⟨_, _, _, hhold⟩ := id h
  obtain ⟨e, he⟩ := hhold f hl ht
  obtain ⟨g, hg, hst, htimer⟩ := h.group ht he
  exact ⟨g, hg, by simpa [hl] using hst, htimer⟩

theorem row_groupBounds {s u : State} (hst : StationFollowsCells s) (hlink : LinkCoherent s)
    (h : GroupBounds s) (hf : GroupFollowsLink s) (hu : Row s u) : GroupBounds u := by
  have hclosed : GroupBounds { s with groupBuffer := none } := groupBounds_closed h
  cases hu with
  | hardReset => exact groupBounds_of_initial rfl rfl rfl rfl rfl rfl rfl rfl rfl
  | groupApply g rest hr hi => exact groupBounds_applyGroup h hi
  | fdatApply c d rest hr hi => exact groupBounds_applyFdat h hi
  | seedApply rest hr hi => exact groupBounds_applySeed h hi
  | stepLossClear hr => exact groupBounds_runClear h
  | teardown hr =>
    have ho := offLine_of_teardown hst hr
    have he := groupBounds_teardownEnded h ho
    rcases runTeardown_cases s with hc | hc <;> rw [hc]
    · exact groupBounds_attach he (by simpa using ho)
    · exact he
  | tableCommand op hr =>
    have hneed : ∀ l, neededChunks (tableAfter op s.table) l = neededChunks s.table l :=
      neededChunks_congr fun i => (tableAfter_cell op s.table i).1
    simpa [GroupBounds, ListsFit, SlotsNeedAttachment, StagingFits, CommittedFits, GroupFits,
      PendingFits, HeldEntriesFit, hneed] using h
  | contentionStart slot f hl hfr he hs => exact groupBounds_contentionStart h he hs
  | lateStartMark late hl hfr => exact hclosed
  | holdLimit late hl hfr => exact hclosed
  | restAfterGap late hl hfr => exact hclosed
  | idleAfterGap late hl hfr => exact hclosed
  | contentionLost k f hl ht => exact groupBounds_loseKey h hf ht k
  | keyWon f hl ht => exact groupBounds_winKey h hf ht
  | brokenTake n hfr =>
    have hb : GroupBounds (breakTake s) := by
      unfold breakTake
      split
      · exact groupBounds_loseStep (s := { s with takeAbandoned := false }) h
      · exact h
    exact hb
  | truncation hl hfr => exact hclosed
  | mismatch bit f ht hm => exact groupBounds_stopFrame hst hlink h hf ht bit
  | holdIntrusion hl hfr =>
    obtain ⟨g, hg, hsend, _⟩ := hf.holding_group hlink hl
    refine groupBounds_countGroup ?_ (not_waits_of_state (g := g) (by simpa using hg) (by simp [hsend]))
    exact h.congr (by simp [groupView])
  | received frame slots n slot hfr hl hd => exact groupBounds_receiveWindow h frame slot _
  | sent tx f slots n slot hfr hl ht hc hd =>
    exact groupBounds_senderWindow h hc (fun e he => hf.not_waits ht he) slot _
  | backoff slot hb => exact groupBounds_expireBackoff h hf hb
  | fillTimer c r hr ha => exact groupBounds_expireFill h r
  | _ =>
    exact h.congr (by simp [groupView])

/-! ### The group's state and the link, command by command and row by row (R77, Table 4-7) -/

theorem command_groupFollowsLink {s x : State} (hlink : LinkCoherent s) (hslots : SlotsNeedAttachment s)
    (h : GroupFollowsLink s) (hx : Command s x) : GroupFollowsLink x := by
  cases hx with
  | start hs ht =>
    obtain ⟨hoff, _⟩ := id hlink
    exact groupFollowsLink_empty (by simpa using hlink.txFrame_none (Or.inl (hoff.2 hs)))
      (by simpa using (hslots.empty hs).2) (by simp)
  | detach hs => exact groupFollowsLink_empty (by simp) (by simp) (by simp)
  | reset => exact groupFollowsLink_empty rfl rfl rfl
  | commit strict hr =>
    obtain ⟨_, _, _, hg, _⟩ := commit_premises hr
    have hn : NoUpd s := h.noUpd (by simp [hg])
    obtain ⟨hc, _, _⟩ := acceptCommit_group strict s
    have hstate : (committedOf strict s).state = .waitFill ∨ (committedOf strict s).state = .queued := by
      unfold committedOf
      dsimp only
      split <;> simp
    refine groupFollowsLink_noUpd (by simpa [NoUpd] using hn)
      (by simpa using h.holding_none hn) (fun g' hg' => ?_) ?_
    · cases hc.symm.trans hg'
      rcases hstate with hs | hs <;> simp [hs]
    · have htimer : s.groupTimer = none := h.timer_none (by simp [hg])
      rcases hstate with hs | hs <;> simp [htimer, hc, hs]
  | withdraw g hg hs =>
    have hn : NoUpd s := h.noUpd fun g' hg' => by cases hg.symm.trans hg'; exact hs
    exact groupFollowsLink_noUpd hn (h.holding_none hn) (by simp) (by simp)
  | _ => simpa [GroupFollowsLink] using h

/-- A report on a state that differs from another in neither link, own frame, group nor timer. -/
theorem groupFollowsLink_report {s v : State} (h : GroupFollowsLink s) (before : Table)
    (hl : v.link = s.link) (hx : v.txFrame = s.txFrame) (hc : v.committed = s.committed)
    (ht : v.groupTimer = s.groupTimer) : GroupFollowsLink (reportStatus before v) :=
  groupFollowsLink_reportStatus (by simpa [GroupFollowsLink, hl, hx, hc, ht] using h) before

theorem groupFollowsLink_applyGroup {s : State} (h : GroupFollowsLink s) (g : GroupItem) :
    GroupFollowsLink (applyGroup g s) := by
  cases ho : g.own with
  | true =>
    have hr := groupFollowsLink_report h s.table (v := endGrant (removeHead
      (writeResults (evaluateGroup g s.table).status (evaluateGroup g s.table).records
        (latchHits (evaluateGroup g s.table).hits { s with table := (evaluateGroup g s.table).table }))))
      (by simp) (by simp) (by simp) (by simp)
    simpa [GroupFollowsLink, applyGroup, ho] using hr
  | false =>
    have hr := groupFollowsLink_report h s.table (v := endGrant (removeHead
      (latchHits (evaluateGroup g s.table).hits { s with table := (evaluateGroup g s.table).table })))
      (by simp) (by simp) (by simp) (by simp)
    simpa [applyGroup, ho] using hr

theorem groupFollowsLink_applyFdat {s : State} (h : GroupFollowsLink s) (c : Chunk) (d : ChunkData) :
    GroupFollowsLink (applyFdat c d s) := by
  unfold applyFdat
  dsimp only
  split
  all_goals exact groupFollowsLink_report h _ (by simp) (by simp) (by simp) (by simp)

/-- The teardown's grant leaves no group, and no own frame off the line. -/
theorem groupFollowsLink_runTeardown {s : State} (hlink : LinkCoherent s) (hslots : SlotsNeedAttachment s)
    (h : GroupFollowsLink s) (ho : isAttached s.station = false) : GroupFollowsLink (runTeardown s) := by
  obtain ⟨hoff, _⟩ := id hlink
  have hx := hlink.txFrame_none (Or.inl (hoff.2 ho))
  obtain ⟨_, hg⟩ := hslots.empty ho
  have hc := (teardownEnded_group hg).1
  have ht : s.groupTimer = none := h.timer_none (by simp [hg])
  rcases runTeardown_cases s with hu | hu <;> rw [hu]
  · exact groupFollowsLink_empty (by simpa using hx) (by simpa using hc) (by simp)
  · exact groupFollowsLink_empty (by simpa using hx) hc (by simpa using ht)

theorem groupFollowsLink_stopFrame {s : State} {f : TxFrame} (h : GroupFollowsLink s)
    (ht : s.txFrame = some f) (bit : MismatchBit) : GroupFollowsLink (stopFrame bit f s) := by
  by_cases hn : 4 ≤ mismatchBefore bit s + 1
  · rw [stopFrame_faulted hn]
    exact groupFollowsLink_empty (by simp) (by simp [enterFaulted]) (by simp [enterFaulted])
  · rw [stopFrame_counted hn]
    simpa [GroupFollowsLink] using groupFollowsLink_stopped h ht
      (u := dropFdatRead (abandonFrame { s with mismatch := mismatchBefore bit s + 1 }))
      (by simp) (by simp) (by simp)

theorem groupFollowsLink_contentionStart {s : State} {slot : CandidateSlot} {f : TxFrame}
    (h : GroupFollowsLink s) (hx : s.txFrame = none) (he : eligible s slot = true)
    (hs : slotFrame s slot = some f) : GroupFollowsLink (beginContention f s) := by
  unfold beginContention
  rcases body_upd_or f.body with ⟨e, hb⟩ | hb
  · obtain rfl := slotFrame_upd hs hb
    obtain ⟨g, hg, _, htimer⟩ := queued_of_eligible he
    rw [startSlot_upd hb]
    exact groupFollowsLink_ownUpd (f := f) (g := { g with state := .contending }) (by simp) hb
      (by simp [hg]) (by simp) (by simpa using htimer)
  · refine groupFollowsLink_otherFrame h (noUpd_of_none hx) (fun f' e hf' => ?_) (by simp)
      (by simp [startSlot_committed hb]) (by simp)
    rw [show (startSlot f (driveStartMark .contending f s)).txFrame = some f by simp] at hf'
    cases hf'
    exact hb e

theorem groupFollowsLink_loseKey {s : State} {f : TxFrame} (h : GroupFollowsLink s)
    (ht : s.txFrame = some f) (k : Fin 7) : GroupFollowsLink (loseKey k f s) := by
  unfold loseKey
  generalize hv : dropFdatRead _ = v
  have hvx : v.txFrame = none := by simp [← hv]
  have hvc : v.committed = s.committed ∧ v.groupTimer = s.groupTimer := by simp [← hv]
  rcases body_upd_or f.body with ⟨e, hb⟩ | hb
  · obtain ⟨g, hg, _, htimer⟩ := h.group ht hb
    rw [hb, loseSlot_upd]
    exact groupFollowsLink_noUpd (noUpd_of_none hvx) (fun _ => hvx) (by simp [hvc.1, hg])
      (by simp [hvc.1, hvc.2, hg, htimer])
  · rw [loseSlot_other hb]
    refine groupFollowsLink_otherFrame h (fun f' e hf' => ?_) (noUpd_of_none hvx) (fun _ => hvx) hvc.1
      hvc.2
    cases ht.symm.trans hf'
    exact hb e

theorem groupFollowsLink_winKey {s : State} {f : TxFrame} (h : GroupFollowsLink s)
    (ht : s.txFrame = some f) : GroupFollowsLink (winKey f s) := by
  rcases body_upd_or f.body with ⟨e, hb⟩ | hb
  · obtain ⟨g, hg, _, htimer⟩ := h.group ht hb
    rw [winKey_upd hb]
    exact groupFollowsLink_ownUpd (f := f) (g := { g with state := .sending }) (by simpa using ht) hb
      (by simp [hg]) (by simp) (by simpa using htimer)
  · have hn : NoUpd s := fun f' e hf' => by cases ht.symm.trans hf'; exact hb e
    rw [winKey_other hb]
    exact groupFollowsLink_otherFrame h hn hn (by simp) rfl rfl

/-- An own frame that counts as accepted: a group that is not over holds, the last one's entries are
apply-pending, and other frames leave the line (R69, R70). -/
theorem groupFollowsLink_ownAccepted {s u : State} {tx : TxFrame} {f : Frame}
    (h : GroupFollowsLink s) (hl : s.link = .sending) (ht : s.txFrame = some tx)
    (hc : txContents tx s.fdatCopy = some f) (hx : u.txFrame = s.txFrame)
    (huc : u.committed = s.committed) (hut : u.groupTimer = s.groupTimer) :
    GroupFollowsLink (ownAccepted f u) := by
  by_cases hb : ∃ e, f.body = .upd e
  · obtain ⟨e, hb⟩ := hb
    have htx := (txContents_upd hc e).1 hb
    obtain ⟨g, hg, hst, htimer⟩ := h.group ht htx
    cases hlast : f.last with
    | true =>
      have hu : ownAccepted f u = ownGroupAccepted f { u with txFrame := none } := by
        simp [ownAccepted, hb, hlast]
      rw [hu]
      exact groupFollowsLink_empty (by simp) (by simp [ownGroupAccepted, huc, hg])
        (by simp [ownGroupAccepted, huc, hg])
    | false =>
      have hu : ownAccepted f u = { u with link := .holding } := by simp [ownAccepted, hb, hlast]
      rw [hu]
      exact groupFollowsLink_ownUpd (hx.trans ht) htx (huc.trans hg) (by simpa [hl] using hst)
        (hut.trans htimer)
  · have hn : NoUpd s := fun f' e hf' he => by
      cases ht.symm.trans hf'
      exact hb ⟨e, (txContents_upd hc e).2 he⟩
    have hu : (ownAccepted f u).txFrame = none ∧ (ownAccepted f u).committed = u.committed
        ∧ (ownAccepted f u).groupTimer = u.groupTimer := by
      unfold ownAccepted
      cases hk : f.body with
      | upd e => exact absurd ⟨e, hk⟩ hb
      | seed => simp
      | freq c => simp
      | fdat c d => simp
    obtain ⟨h1, h2, h3⟩ := hu
    exact groupFollowsLink_otherFrame h hn (noUpd_of_none h1) (fun _ => h1) (h2.trans huc)
      (h3.trans hut)

theorem groupFollowsLink_senderWindow {s : State} {tx : TxFrame} {f : Frame}
    (h : GroupFollowsLink s) (hl : s.link = .sending) (ht : s.txFrame = some tx)
    (hc : txContents tx s.fdatCopy = some f) (slot : SlotChoice) (o : WindowOutcome) :
    GroupFollowsLink (senderWindow tx f slot o s) := by
  unfold senderWindow
  dsimp only
  split
  · exact groupFollowsLink_ownAccepted h hl ht hc rfl rfl rfl
  · exact groupFollowsLink_stopped h ht rfl rfl rfl

theorem groupFollowsLink_expireBackoff {s : State} {slot : CandidateSlot} (h : GroupFollowsLink s)
    (hb : backoffRuns s slot = true) : GroupFollowsLink (expireBackoff slot s) := by
  cases slot with
  | group =>
    obtain ⟨_, _, htimer, _⟩ := id h
    obtain ⟨g, hg, hst⟩ := htimer.1 hb
    have hn : NoUpd s := h.noUpd fun g' hg' => by cases hg.symm.trans hg'; simp [hst]
    exact groupFollowsLink_noUpd (by simpa [NoUpd, expireBackoff] using hn)
      (by simpa [expireBackoff] using h.holding_none hn) (by simp [expireBackoff, hg])
      (by simp [expireBackoff, hg])
  | seed => exact h
  | request => exact h
  | answer => exact h

theorem row_groupFollowsLink {s u : State} (hst : StationFollowsCells s) (hlink : LinkCoherent s)
    (hslots : SlotsNeedAttachment s) (h : GroupFollowsLink s) (hu : Row s u) : GroupFollowsLink u := by
  have hlisten : s.link = .listen → s.txFrame = none := fun hl =>
    hlink.txFrame_none (Or.inr (Or.inl hl))
  have hreceive : s.link = .receiving → s.txFrame = none := fun hl =>
    hlink.txFrame_none (Or.inr (Or.inr hl))
  have hfree : s.txFrame = none → ∀ v : State, v.txFrame = none → v.committed = s.committed →
      v.groupTimer = s.groupTimer → GroupFollowsLink v := fun hx v hv hc ht =>
    groupFollowsLink_otherFrame h (noUpd_of_none hx) (noUpd_of_none hv) (fun _ => hv) hc ht
  cases hu with
  | hardReset => exact groupFollowsLink_empty rfl rfl rfl
  | groupApply g rest hr hi => exact groupFollowsLink_applyGroup h g
  | fdatApply c d rest hr hi => exact groupFollowsLink_applyFdat h c d
  | seedApply rest hr hi => exact groupFollowsLink_report h _ rfl rfl rfl rfl
  | stepLossClear hr => exact groupFollowsLink_report h _ (by simp) (by simp) (by simp) (by simp)
  | teardown hr => exact groupFollowsLink_runTeardown hlink hslots h (offLine_of_teardown hst hr)
  | contentionStart slot f hl hfr he hs => exact groupFollowsLink_contentionStart h (hlisten hl) he hs
  | contentionLost k f hl ht => exact groupFollowsLink_loseKey h ht k
  | keyWon f hl ht => exact groupFollowsLink_winKey h ht
  | frameTaken hl hfr => exact hfree (hlisten hl) _ (by simpa using hlisten hl) (by simp) (by simp)
  | truncation hl hfr => exact hfree (hreceive hl) _ rfl rfl rfl
  | mismatch bit f ht hm => exact groupFollowsLink_stopFrame h ht bit
  | holdGap f hl hfr hn =>
    obtain ⟨g, hg, hsend, htimer⟩ := h.holding_group hlink hl
    obtain ⟨f', _, hf'⟩ := Option.bind_eq_some_iff.1 hn
    obtain ⟨g', _, hgf⟩ := Option.bind_eq_some_iff.1 hf'
    obtain ⟨e, he⟩ := groupFrame_upd hgf
    exact groupFollowsLink_ownUpd (s := driveStartMark .sending f s) rfl he hg hsend htimer
  | holdIntrusion hl hfr =>
    obtain ⟨g, hg, _⟩ := h.holding_group hlink hl
    exact groupFollowsLink_countGroup (by simp) (by simp [hg])
  | received frame slots n slot hfr hl hd =>
    exact hfree (hreceive hl) _ (by simpa using hreceive hl) (by simp) (by simp)
  | sent tx f slots n slot hfr hl ht hc hd => exact groupFollowsLink_senderWindow h hl ht hc slot _
  | backoff slot hb => exact groupFollowsLink_expireBackoff h hb
  | fillTimer c r hr ha =>
    unfold expireFill
    dsimp only
    split
    · exact groupFollowsLink_failChunk h _
    · exact h
  | _ => simpa [GroupFollowsLink] using h

/-! ### Every step -/

/-- The committed group's invariants with the two that they lean on. -/
structure GroupCoherent (s : State) : Prop where
  station : StationFollowsCells s
  link : LinkCoherent s
  bounds : GroupBounds s
  follows : GroupFollowsLink s

/-- What every step keeps of the committed group. -/
def CommittedGroupKept (s : State) : Prop :=
  SlotsNeedAttachment s ∧ GroupsFit s ∧ HeldEntriesFit s ∧ ResultsFit s ∧ GroupFollowsLink s

theorem committedGroupKept_of {s : State} (h : GroupBounds s) (hf : GroupFollowsLink s) :
    CommittedGroupKept s := by
  obtain ⟨hslots, hfit, hheld, hres⟩ := (groupBounds_iff s).1 h
  exact ⟨hslots, hfit, hheld, hres, hf⟩

theorem GroupBounds.slots {s : State} (h : GroupBounds s) : SlotsNeedAttachment s := h.2.1

theorem settle_groupBounds {s : State} (h : GroupBounds s) : GroupBounds (settle s) := by
  exact h.congr (by simp [groupView])

theorem settle_groupFollowsLink {s : State} (h : GroupFollowsLink s) : GroupFollowsLink (settle s) := by
  simpa [GroupFollowsLink] using h

theorem command_groupCoherent {s x : State} (h : GroupCoherent s) (hx : Command s x) :
    GroupCoherent x :=
  ⟨command_stationFollowsCells h.station hx, command_linkCoherent h.link hx,
    command_groupBounds h.station h.bounds hx,
    command_groupFollowsLink h.link h.bounds.slots h.follows hx⟩

theorem settle_groupCoherent {s : State} (h : GroupCoherent s) : GroupCoherent (settle s) :=
  ⟨settle_stationFollowsCells h.station, settle_linkCoherent h.link, settle_groupBounds h.bounds,
    settle_groupFollowsLink h.follows⟩

theorem row_committedGroupKept {s u : State} (h : GroupCoherent s) (hu : Row s u) :
    CommittedGroupKept (settle u) :=
  committedGroupKept_of
    (settle_groupBounds (row_groupBounds h.station h.link h.bounds h.follows hu))
    (settle_groupFollowsLink (row_groupFollowsLink h.station h.link h.bounds.slots h.follows hu))

/-- Settles O60: each invariant is kept by every command, by every row and by the arbiter. -/
theorem stepKeepsCommittedGroup : Obligations.StepKeepsCommittedGroup := by
  intro s t hstation hlink hslots hfit hheld hres hfollows hstep
  exact step_keeps (P := GroupCoherent) (I := CommittedGroupKept)
    (fun _ h => committedGroupKept_of h.bounds h.follows) (fun _ _ h => ⟨h.1, h.2, h.3, h.4⟩)
    (fun b _ => writeData_keeps (fun _ _ h => ⟨h.1, h.2, h.3, h.4⟩)
      (fun _ _ => command_groupCoherent) b)
    (fun _ => settle_groupCoherent) (fun _ _ => row_committedGroupKept)
    ⟨hstation, hlink, (groupBounds_iff s).2 ⟨hslots, hfit, hheld, hres⟩, hfollows⟩ hstep

end Sys2Proof.Machine
end

section
/-!
PROOF. The evaluation of one update entry: its tests, its value actions, the write mask, the four steps that
decide its outcome and what each outcome writes (R22 to R33, R35).
-/
namespace Sys2Proof.Machine

/-! ### Tests (R23 to R26) -/

theorem matchPasses_iff (e : Entry) (v : Value) :
    matchPasses e v = true ↔ e.matchFn = .any
      ∨ (e.matchFn = .same ∧ v &&& e.matchMask = e.reference &&& e.matchMask)
      ∨ (e.matchFn = .different ∧ v &&& e.matchMask ≠ e.reference &&& e.matchMask) := by
  unfold matchPasses
  cases e.matchFn <;> simp

theorem magnitudeHolds_iff (f : MagnitudeFn) (v r : Nat) :
    magnitudeHolds f v r = true ↔ f = .any ∨ (f = .gt ∧ v > r) ∨ (f = .eq ∧ v = r)
      ∨ (f = .ge ∧ v ≥ r) ∨ (f = .le ∧ v ≤ r) ∨ (f = .ne ∧ v ≠ r) ∨ (f = .lt ∧ v < r) := by
  cases f <;> simp [magnitudeHolds]

theorem ownerPasses_iff (e : Entry) (sender : Station) (o : Owner) :
    ownerPasses e sender o = true ↔ e.ownerTest = .any ∨ (e.ownerTest = .free ∧ o = none)
      ∨ (e.ownerTest = .mine ∧ o = some sender)
      ∨ (e.ownerTest = .freeOrMine ∧ (o = none ∨ o = some sender)) := by
  unfold ownerPasses
  cases e.ownerTest <;> simp

theorem testsPass_iff (e : Entry) (sender : Station) (r : CellRecord) :
    testsPass e sender r = true ↔ matchPasses e r.value = true ∧ magnitudePasses e r.value = true
      ∧ ownerPasses e sender r.owner = true := by
  simp [testsPass, and_assoc]

/-- Under a match mask of 0 the value always equals the reference: SAME passes and DIFFERENT fails. -/
theorem matchPasses_of_mask_zero {e : Entry} (hm : e.matchMask = 0) (v : Value) :
    (e.matchFn = .same → matchPasses e v = true)
      ∧ (e.matchFn = .different → matchPasses e v = false) := by
  constructor <;> intro hf <;> simp [matchPasses, hf, hm]

/-- Settles O30: each test is its table read as a disjunction of the codes that can pass. -/
theorem entryTestsAsTabled : Obligations.EntryTestsAsTabled := by
  intro e sender r
  refine ⟨matchPasses_iff e r.value, fun hm => matchPasses_of_mask_zero hm r.value, ?_,
    ownerPasses_iff e sender r.owner, testsPass_iff e sender r⟩
  rintro v f rfl rfl
  exact magnitudeHolds_iff _ _ _

/-! ### Actions and the write mask (R27, R28) -/

theorem toNat_addSat (v o : Value) :
    (actionResult .addSat v o).toNat = min (v.toNat + o.toNat) 65535 := by
  unfold actionResult
  dsimp only
  split
  · next h => rw [min_eq_right (Nat.le_of_lt h)]; rfl
  · next h => rw [BitVec.toNat_add]; omega

theorem toNat_subSat (v o : Value) : (actionResult .subSat v o).toNat = v.toNat - o.toNat := by
  unfold actionResult
  dsimp only
  split
  · next h => rw [Nat.sub_eq_zero_of_le (Nat.le_of_lt h)]; rfl
  · next h => exact BitVec.toNat_sub_of_le (by rw [BitVec.le_def]; omega)

/-- SUB-WRAP is the inverse of ADD-WRAP: the operand added back gives the old value. -/
theorem toNat_subWrap_add (v o : Value) :
    ((actionResult .subWrap v o).toNat + o.toNat) % 65536 = v.toNat := by
  have h : v - o + o = v := BitVec.sub_add_cancel v o
  calc ((v - o).toNat + o.toNat) % 65536 = (v - o + o).toNat := (BitVec.toNat_add _ _).symm
    _ = v.toNat := by rw [h]

/-- Settles O31: the saturating and wrapping actions as arithmetic on the unsigned numbers. -/
theorem valueActionsAsTabled : Obligations.ValueActionsAsTabled := by
  intro v o
  exact ⟨rfl, rfl, rfl, BitVec.toNat_not, toNat_addSat v o, toNat_subSat v o, BitVec.toNat_add v o,
    toNat_subWrap_add v o⟩

theorem getLsbD_mergeMask (mask old result : Value) (k : Nat) :
    (mergeMask mask old result).getLsbD k
      = if mask.getLsbD k then result.getLsbD k else old.getLsbD k := by
  unfold mergeMask
  rw [BitVec.getLsbD_or, BitVec.getLsbD_and, BitVec.getLsbD_and, BitVec.getLsbD_not]
  by_cases hk : k < 16
  · cases mask.getLsbD k <;> simp [hk]
  · have hout : ∀ v : Value, v.getLsbD k = false := fun v => BitVec.getLsbD_of_ge v k (by omega)
    simp only [hout, Bool.false_and, Bool.or_false, ite_self]

/-- Settles O32: the merge is taken bit by bit, and the two extreme masks are instances of it. -/
theorem writeMaskMergesBits : Obligations.WriteMaskMergesBits := by
  refine ⟨getLsbD_mergeMask, fun old result => ⟨?_, ?_⟩, fun _ => rfl, by decide⟩
  · apply BitVec.eq_of_getLsbD_eq
    intro k hk
    have hset : (0xFFFF : Value).getLsbD k = true := by
      rw [show (0xFFFF : Value) = BitVec.allOnes 16 from rfl, BitVec.getLsbD_allOnes]
      simpa using hk
    rw [getLsbD_mergeMask, if_pos hset]
  · apply BitVec.eq_of_getLsbD_eq
    intro k _
    simp [getLsbD_mergeMask]

/-! ### The outcome of a reached entry (R31) -/

/-- The first step: a chained entry after an UNDETERMINED one. -/
theorem decideOutcome_after_undetermined {e : Entry} (hc : e.chain = true) (t : Table)
    (sender : Station) : decideOutcome t sender (some .undetermined) e = .undetermined := by
  simp [decideOutcome, hc]

/-- The second step: a chained entry after a FAILED or a SKIPPED one. -/
theorem decideOutcome_after_failure {e : Entry} (hc : e.chain = true) {prev : Option EntryOutcome}
    (hp : prev = some .failed ∨ prev = some .skipped) (t : Table) (sender : Station) :
    decideOutcome t sender prev e = .skipped := by
  rcases hp with rfl | rfl <;> simp [decideOutcome, hc]

/-- The third and fourth steps, to which every entry comes that its predecessor does not decide. -/
theorem decideOutcome_unchained {e : Entry} {prev : Option EntryOutcome}
    (hp : e.chain = false ∨ prev = none ∨ prev = some .passed) (t : Table) (sender : Station) :
    decideOutcome t sender prev e
      = if namedKnown t e then
          if e.plain || testsPass e sender (cellAt t e.cell).record then .passed else .failed
        else .undetermined := by
  unfold decideOutcome
  rcases hp with hc | rfl | rfl
  · cases namedKnown t e <;> simp [hc]
  · cases namedKnown t e <;> simp
  · cases namedKnown t e <;> simp

/-- Settles O33: the four steps one by one, the third told by the named cells. -/
theorem outcomeStepsInOrder : Obligations.OutcomeStepsInOrder := by
  intro t sender prev e
  refine ⟨fun hc hp => ?_, fun hc hp => decideOutcome_after_failure hc hp t sender, fun hp => ?_⟩
  · rw [hp]
    exact decideOutcome_after_undetermined hc t sender
  · rw [decideOutcome_unchained hp]
    refine ⟨fun ⟨i, hi, hu⟩ => ?_, fun hk => ?_⟩
    · have hn : ¬ namedKnown t e = true := fun h => by
        rw [(namedKnown_iff t e).1 h i hi] at hu
        cases hu
      rw [if_neg hn]
    · rw [if_pos ((namedKnown_iff t e).2 hk)]
      exact ⟨fun hpl => by simp [hpl], fun hpl => by simp [hpl]⟩

/-! ### What a reached entry writes (R29, R30, R35) -/

theorem cellAt_writeCell_self (t : Table) (i : Byte) (v : Value) (o : Owner) :
    cellAt (writeCell t i v o) i =
      if v = (cellAt t i).record.value ∧ o = (cellAt t i).record.owner then cellAt t i
      else
        { record := { value := v, owner := o, seq := (cellAt t i).record.seq + 1 }
          known := (cellAt t i).known, watch := (cellAt t i).watch, changed := true } := by
  rw [cellAt_writeCell]
  by_cases h : v = (cellAt t i).record.value ∧ o = (cellAt t i).record.owner
  · rw [if_pos h, if_neg fun hc => hc.2 h]
  · rw [if_neg h, if_pos ⟨rfl, h⟩]

/-- An entry of any outcome leaves every cell but its target. -/
theorem cellAt_entryEffect_of_ne {e : Entry} {i : Byte} (h : i ≠ e.cell) (t : Table)
    (sender : Station) (o : EntryOutcome) : cellAt (entryEffect t sender e o) i = cellAt t i := by
  have hwrite : ∀ v w, cellAt (writeCell t e.cell v w) i = cellAt t i := fun v w => by
    rw [cellAt_writeCell, if_neg fun hc => h hc.1]
  cases o with
  | passed => exact hwrite _ _
  | failed => exact hwrite _ _
  | skipped => rfl
  | undetermined => exact (cellAt_makeUnknown t e.cell i).trans (if_neg h)
  | notReached => rfl

theorem cellAt_entryEffect_undetermined (t : Table) (sender : Station) (e : Entry) :
    cellAt (entryEffect t sender e .undetermined) e.cell = unknownCell (cellAt t e.cell) :=
  (cellAt_makeUnknown t e.cell e.cell).trans (if_pos rfl)

theorem unknownCell_of_known {c : Cell} (h : c.known = true) :
    unknownCell c = { record := { value := 0, owner := none, seq := 0 }, known := false,
                      watch := c.watch, changed := true } := if_pos h

theorem unknownCell_of_unknown {c : Cell} (h : c.known = false) : unknownCell c = c :=
  if_neg (by simp [h])

/-- Settles O34: a PASSED and a FAILED entry are one write to the target each, an UNDETERMINED one the
target's loss. -/
theorem entryEffectOnReplica : Obligations.EntryEffectOnReplica := by
  rintro t sender e i c operand rfl hop
  obtain rfl : operand = operandValue t e := by
    rw [hop]
    unfold operandValue
    cases e.source <;> rfl
  refine ⟨fun h => cellAt_entryEffect_of_ne h t sender, ?_, ?_, rfl, fun hk => ?_, fun hu => ?_⟩
  · refine (cellAt_writeCell_self t e.cell _ _).trans ?_
    unfold effectiveMask passOwner
    cases e.ownerAction <;> rfl
  · exact cellAt_writeCell_self t e.cell _ _
  · rw [cellAt_entryEffect_undetermined, unknownCell_of_known hk]
  · rw [cellAt_entryEffect_undetermined, unknownCell_of_unknown hu]

end Sys2Proof.Machine
end

section
/-!
PROOF. The evaluation of a group: the replica and the outcome at each entry of a run, and the non-strict and
the strict group told by them (R31, R35 to R39, R41, R42).
-/
namespace Sys2Proof.Machine

/-! ### A run, entry by entry (R31, R35)

A strict group's working copy passes through the replicas of a direct run up to the entry that stops it, so
both kinds of group are told by one run. -/

/-- The replica that a direct run of the entries leaves before its k-th one; `prev` is the outcome of the
entry before the first. -/
def tableBefore (sender : Station) : Option EntryOutcome → List Entry → Table → Nat → Table
  | _, [], t, _ => t
  | _, _ :: _, t, 0 => t
  | prev, e :: es, t, k + 1 =>
    let o := decideOutcome t sender prev e
    tableBefore sender (some o) es (entryEffect t sender e o) k

/-- The outcome of the k-th entry of that run. -/
def outcomeAt (sender : Station) : Option EntryOutcome → List Entry → Table → Nat → EntryOutcome
  | _, [], _, _ => .notReached
  | prev, e :: _, t, 0 => decideOutcome t sender prev e
  | prev, e :: es, t, k + 1 =>
    let o := decideOutcome t sender prev e
    outcomeAt sender (some o) es (entryEffect t sender e o) k

/-- The number of entries that pass before the first that does not. -/
def passedCount (sender : Station) : Option EntryOutcome → List Entry → Table → Nat
  | _, [], _ => 0
  | prev, e :: es, t =>
    if decideOutcome t sender prev e = .passed then
      passedCount sender (some .passed) es (entryEffect t sender e .passed) + 1
    else 0

@[simp] theorem tableBefore_zero (sender : Station) (prev : Option EntryOutcome) (es : List Entry)
    (t : Table) : tableBefore sender prev es t 0 = t := by
  cases es <;> rfl

theorem outcomeAt_eq (sender : Station) {es : List Entry} {k : Nat} {e : Entry}
    (he : es[k]? = some e) (prev : Option EntryOutcome) (t : Table) :
    outcomeAt sender prev es t k
      = decideOutcome (tableBefore sender prev es t k) sender
          (if k = 0 then prev else some (outcomeAt sender prev es t (k - 1))) e := by
  induction es generalizing prev t k with
  | nil => simp at he
  | cons x xs ih =>
    cases k with
    | zero =>
      obtain rfl : x = e := by simpa using he
      rfl
    | succ k =>
      refine (ih he _ _).trans ?_
      cases k <;> rfl

theorem tableBefore_succ (sender : Station) {es : List Entry} {k : Nat} {e : Entry}
    (he : es[k]? = some e) (prev : Option EntryOutcome) (t : Table) :
    tableBefore sender prev es t (k + 1)
      = entryEffect (tableBefore sender prev es t k) sender e (outcomeAt sender prev es t k) := by
  induction es generalizing prev t k with
  | nil => simp at he
  | cons x xs ih =>
    cases k with
    | zero =>
      obtain rfl : x = e := by simpa using he
      exact tableBefore_zero _ _ _ _
    | succ k => exact ih he _ _

/-! ### A non-strict group (R35, R39, R41, R42) -/

theorem runEntries_table (sender : Station) (prev : Option EntryOutcome) (es : List Entry)
    (t : Table) : (runEntries sender prev es t).1 = tableBefore sender prev es t es.length := by
  induction es generalizing prev t with
  | nil => rfl
  | cons e es ih => exact ih _ _

theorem runEntries_getElem? (sender : Station) {es : List Entry} {k : Nat} {e : Entry}
    (he : es[k]? = some e) (prev : Option EntryOutcome) (t : Table) :
    (runEntries sender prev es t).2[k]?
      = some (recordOf (outcomeAt sender prev es t k)
          (cellAt (tableBefore sender prev es t k) e.cell).record
          (cellAt (tableBefore sender prev es t (k + 1)) e.cell).record) := by
  induction es generalizing prev t k with
  | nil => simp at he
  | cons x xs ih =>
    cases k with
    | zero =>
      obtain rfl : x = e := by simpa using he
      rw [tableBefore_succ sender he]
      rfl
    | succ k => exact ih he _ _

theorem runEntries_any_undetermined (sender : Station) (prev : Option EntryOutcome)
    (es : List Entry) (t : Table) :
    (runEntries sender prev es t).2.any (fun r => r.outcome == .undetermined) = true
      ↔ ∃ k, k < es.length ∧ outcomeAt sender prev es t k = .undetermined := by
  induction es generalizing prev t with
  | nil => simp [runEntries]
  | cons e es ih =>
    rw [runEntries, List.any_cons, Bool.or_eq_true, ih, List.length_cons, Nat.exists_lt_succ_left]
    exact or_congr (by simp [recordOf, outcomeAt]) Iff.rfl

theorem watchHits_cons (t : Table) (e : Entry) (es : List Entry) (r : ResultRecord)
    (rs : List ResultRecord) :
    watchHits t (e :: es) (r :: rs)
      = (if r.outcome = .passed ∧ (cellAt t e.cell).watch = true then [e.cell] else [])
        ++ watchHits t es rs := by
  unfold watchHits
  rw [List.zip_cons_cons, List.filterMap_cons]
  dsimp only
  split_ifs <;> rfl

/-- The target of the k-th entry when it passes with its watch flag on (R7, R39). -/
def hitAt (t : Table) (es : List Entry) (os : Nat → EntryOutcome) (k : Nat) : Option Byte :=
  match es[k]? with
  | none => none
  | some e => if os k = .passed ∧ (cellAt t e.cell).watch = true then some e.cell else none

/-- The hits of a list of records with the outcomes `os`, by position. -/
theorem watchHits_eq_range (t : Table) (es : List Entry) (rs : List ResultRecord)
    (os : Nat → EntryOutcome) (hl : rs.length = es.length)
    (ho : ∀ k r, rs[k]? = some r → r.outcome = os k) :
    watchHits t es rs = (List.range es.length).filterMap (hitAt t es os) := by
  induction es generalizing rs os with
  | nil => rfl
  | cons e es ih =>
    cases rs with
    | nil => simp at hl
    | cons r rs =>
      have hr : r.outcome = os 0 := ho 0 r rfl
      have htail := ih rs (fun k => os (k + 1)) (by simpa using hl) fun k x hx => ho (k + 1) x hx
      have hshift : hitAt t (e :: es) os ∘ Nat.succ = hitAt t es fun k => os (k + 1) := rfl
      rw [watchHits_cons, htail, hr, List.length_cons, List.range_succ_eq_map, List.filterMap_cons,
        List.filterMap_map, hshift]
      simp only [hitAt, List.getElem?_cons_zero]
      split_ifs <;> rfl

theorem runEntries_outcome (sender : Station) (prev : Option EntryOutcome) (es : List Entry)
    (t : Table) (k : Nat) (r : ResultRecord) (hr : (runEntries sender prev es t).2[k]? = some r) :
    r.outcome = outcomeAt sender prev es t k := by
  obtain ⟨hk, -⟩ := List.getElem?_eq_some_iff.1 hr
  rw [length_runEntries] at hk
  rw [runEntries_getElem? sender (List.getElem?_eq_getElem hk)] at hr
  obtain rfl := Option.some.inj hr
  rfl

theorem evaluateGroup_nonStrict {g : GroupItem} (hs : g.strict = false) (t : Table) :
    evaluateGroup g t = runNonStrict g.sender g.entries t := by
  simp [evaluateGroup, hs]

/-- Settles O35: the run's replicas and outcomes are the witnesses. -/
theorem nonStrictGroupRunsInOrder : Obligations.NonStrictGroupRunsInOrder := by
  intro g t hs
  rw [evaluateGroup_nonStrict hs]
  have hany := runEntries_any_undetermined g.sender none g.entries t
  refine ⟨tableBefore g.sender none g.entries t, outcomeAt g.sender none g.entries t,
    tableBefore_zero _ _ _ _, runEntries_table _ _ _ _, length_runEntries _ _ _ _,
    fun k e he => ⟨outcomeAt_eq _ he _ _, tableBefore_succ _ he _ _, runEntries_getElem? _ he _ _⟩,
    fun hu => if_pos (hany.2 hu), fun hn => if_neg fun h => ?_, ?_⟩
  · obtain ⟨k, hk, hu⟩ := hany.1 h
    exact hn k hk hu
  · refine (watchHits_eq_range t g.entries _ _ (length_runEntries _ _ _ _)
      (runEntries_outcome _ _ _ _)).trans ?_
    refine congrArg (fun f => List.filterMap f _) (funext fun k => ?_)
    unfold hitAt
    cases g.entries[k]? <;> rfl

/-! ### A strict group (R36 to R38, R41) -/

theorem passedCount_le (sender : Station) (prev : Option EntryOutcome) (es : List Entry)
    (t : Table) : passedCount sender prev es t ≤ es.length := by
  induction es generalizing prev t with
  | nil => exact Nat.le_refl 0
  | cons e es ih =>
    unfold passedCount
    split
    · exact Nat.succ_le_succ (ih _ _)
    · exact Nat.zero_le _

theorem outcomeAt_of_lt_passedCount {sender : Station} {prev : Option EntryOutcome}
    {es : List Entry} {t : Table} {k : Nat} (hk : k < passedCount sender prev es t) :
    outcomeAt sender prev es t k = .passed := by
  induction es generalizing prev t k with
  | nil => exact absurd hk (Nat.not_lt_zero k)
  | cons e es ih =>
    unfold passedCount at hk
    split at hk
    · next hp =>
      cases k with
      | zero => exact hp
      | succ k =>
        rw [outcomeAt, hp]
        exact ih (Nat.lt_of_succ_lt_succ hk)
    · exact absurd hk (Nat.not_lt_zero k)

theorem outcomeAt_passedCount {sender : Station} {prev : Option EntryOutcome} {es : List Entry}
    {t : Table} (hn : passedCount sender prev es t < es.length) :
    outcomeAt sender prev es t (passedCount sender prev es t) ≠ .passed := by
  induction es generalizing prev t with
  | nil => exact absurd hn (Nat.not_lt_zero _)
  | cons e es ih =>
    unfold passedCount at hn ⊢
    split at hn
    · next hp =>
      rw [if_pos hp, outcomeAt, hp]
      exact ih (Nat.lt_of_succ_lt_succ hn)
    · next hp =>
      rw [if_neg hp]
      exact hp

/-- The entry that stops a strict group follows a PASSED one or none, so it is FAILED or UNDETERMINED. -/
theorem outcomeAt_stop {sender : Station} {es : List Entry} {t : Table} {n : Nat}
    (hp : n = passedCount sender none es t) (hn : n < es.length) :
    outcomeAt sender none es t n = .failed ∨ outcomeAt sender none es t n = .undetermined := by
  have hne : outcomeAt sender none es t n ≠ .passed := by
    subst hp
    exact outcomeAt_passedCount hn
  obtain ⟨prev, hprev, hout⟩ : ∃ prev, (prev = none ∨ prev = some .passed)
      ∧ outcomeAt sender none es t n
        = decideOutcome (tableBefore sender none es t n) sender prev es[n] := by
    refine ⟨_, ?_, outcomeAt_eq sender (List.getElem?_eq_getElem hn) none t⟩
    by_cases h0 : n = 0
    · exact Or.inl (if_pos h0)
    · rw [if_neg h0, outcomeAt_of_lt_passedCount (by omega)]
      exact Or.inr rfl
  rw [hout, decideOutcome_unchained (Or.inr hprev)] at hne ⊢
  split_ifs at hne ⊢
  · exact absurd rfl hne
  · exact Or.inl rfl
  · exact Or.inr rfl

/-- The working copy is the run's replica before the entry that stops the group. -/
theorem runStrictEntries_table (sender : Station) (prev : Option EntryOutcome) (es : List Entry)
    (t : Table) :
    (runStrictEntries sender prev es t).1
      = tableBefore sender prev es t (passedCount sender prev es t) := by
  induction es generalizing prev t with
  | nil => rfl
  | cons e es ih =>
    unfold runStrictEntries passedCount
    dsimp only
    split
    · next hp =>
      rw [tableBefore, hp]
      exact ih _ _
    · rfl

/-- The status by the entry that stops the group, APPLIED when none does. -/
theorem runStrictEntries_status_eq (sender : Station) (prev : Option EntryOutcome)
    (es : List Entry) (t : Table) :
    (runStrictEntries sender prev es t).2.1
      = if passedCount sender prev es t = es.length then .applied
        else if outcomeAt sender prev es t (passedCount sender prev es t) = .undetermined then
          .undetermined
        else .void := by
  induction es generalizing prev t with
  | nil => rfl
  | cons e es ih =>
    unfold runStrictEntries passedCount
    dsimp only
    split
    · next hp =>
      simp only [outcomeAt, hp, List.length_cons, Nat.add_right_cancel_iff]
      exact ih _ _
    · exact (if_neg (Nat.succ_ne_zero _).symm).symm

/-- The record of the k-th entry: a PASSED one's from the copy before and after it, the stopping one's
from the copy as it is, NOT-REACHED after it (Table 2-5). -/
theorem runStrictEntries_getElem? (sender : Station) {es : List Entry} {k : Nat} {e : Entry}
    (he : es[k]? = some e) (prev : Option EntryOutcome) (t : Table) :
    (runStrictEntries sender prev es t).2.2[k]?
      = some (if k < passedCount sender prev es t then
          recordOf .passed (cellAt (tableBefore sender prev es t k) e.cell).record
            (cellAt (tableBefore sender prev es t (k + 1)) e.cell).record
        else if k = passedCount sender prev es t then
          recordOf (outcomeAt sender prev es t k)
            (cellAt (tableBefore sender prev es t k) e.cell).record
            (cellAt (tableBefore sender prev es t k) e.cell).record
        else ResultRecord.notReached) := by
  induction es generalizing prev t k with
  | nil => simp at he
  | cons x xs ih =>
    unfold runStrictEntries passedCount
    dsimp only
    cases k with
    | zero =>
      obtain rfl : x = e := by simpa using he
      split
      · next hp => simp [tableBefore, hp]
      · simp [tableBefore, outcomeAt]
    | succ k =>
      obtain ⟨hk, -⟩ := List.getElem?_eq_some_iff.1 he
      split
      · next hp =>
        simp only [List.getElem?_cons_succ, Nat.add_lt_add_iff_right, Nat.add_right_cancel_iff,
          tableBefore, outcomeAt, hp]
        exact ih he _ _
      · simp [Nat.lt_of_succ_lt_succ hk]

/-- A strict run in which every entry passes hits every watched target, in entry order. -/
theorem watchHits_of_passed (t : Table) (es : List Entry) (rs : List ResultRecord)
    (hl : rs.length = es.length) (hp : ∀ r ∈ rs, r.outcome = .passed) :
    watchHits t es rs = (es.map Entry.cell).filter fun i => (cellAt t i).watch := by
  induction es generalizing rs with
  | nil => rfl
  | cons e es ih =>
    cases rs with
    | nil => simp at hl
    | cons r rs =>
      obtain ⟨hr, hrs⟩ := List.forall_mem_cons.1 hp
      rw [watchHits_cons, ih rs (by simpa using hl) hrs, List.map_cons, List.filter_cons]
      cases hw : (cellAt t e.cell).watch <;> simp [hr]

theorem runStrictEntries_passed {sender : Station} {prev : Option EntryOutcome} {es : List Entry}
    {t : Table} (hn : passedCount sender prev es t = es.length) :
    ∀ r ∈ (runStrictEntries sender prev es t).2.2, r.outcome = .passed := by
  intro r hr
  obtain ⟨k, hk⟩ := List.getElem?_of_mem hr
  obtain ⟨hlt, -⟩ := List.getElem?_eq_some_iff.1 hk
  rw [length_runStrictEntries] at hlt
  rw [runStrictEntries_getElem? sender (List.getElem?_eq_getElem hlt), if_pos (hn ▸ hlt)] at hk
  obtain rfl := Option.some.inj hk
  rfl

theorem evaluateGroup_strict {g : GroupItem} (hs : g.strict = true) (t : Table) :
    evaluateGroup g t = runStrict g.sender g.entries t := by
  simp [evaluateGroup, hs]

theorem runStrict_records (sender : Station) (es : List Entry) (t : Table) :
    (runStrict sender es t).records = (runStrictEntries sender none es t).2.2 := by
  unfold runStrict
  dsimp only
  split <;> rfl

/-- A strict group whose every entry passes (R36). -/
theorem runStrict_applied {sender : Station} {es : List Entry} {t : Table}
    (h : (runStrictEntries sender none es t).2.1 = .applied) :
    runStrict sender es t =
      { table := takeCopy t (runStrictEntries sender none es t).1, status := .applied
        records := (runStrictEntries sender none es t).2.2
        hits := watchHits t es (runStrictEntries sender none es t).2.2 } := by
  simp [runStrict, h]

/-- A strict group stopped by a FAILED entry (R37). -/
theorem runStrict_void {sender : Station} {es : List Entry} {t : Table}
    (h : (runStrictEntries sender none es t).2.1 = .void) :
    runStrict sender es t =
      { table := t, status := .void, records := (runStrictEntries sender none es t).2.2
        hits := [] } := by
  simp [runStrict, h]

/-- A strict group stopped by an UNDETERMINED entry (R38). -/
theorem runStrict_undetermined {sender : Station} {es : List Entry} {t : Table}
    (h : (runStrictEntries sender none es t).2.1 = .undetermined) :
    runStrict sender es t =
      { table := loseTargets es t, status := .undetermined
        records := (runStrictEntries sender none es t).2.2, hits := [] } := by
  simp [runStrict, h]

theorem strictRun_passedCount (g : GroupItem) (t : Table) :
    StrictRun g t (passedCount g.sender none g.entries t) (tableBefore g.sender none g.entries t)
      (outcomeAt g.sender none g.entries t) := by
  refine ⟨tableBefore_zero _ _ _ _, passedCount_le _ _ _ _, fun k e _ he => outcomeAt_eq _ he _ _,
    fun k e hk he => ⟨outcomeAt_of_lt_passedCount hk, ?_⟩, outcomeAt_passedCount⟩
  rw [tableBefore_succ _ he, outcomeAt_of_lt_passedCount hk]

theorem strictRecords_passedCount (g : GroupItem) (t : Table) :
    StrictRecords g (passedCount g.sender none g.entries t)
      (tableBefore g.sender none g.entries t) (outcomeAt g.sender none g.entries t)
      (runStrict g.sender g.entries t).records := by
  rw [runStrict_records]
  exact ⟨length_runStrictEntries _ _ _ _, fun k e he => runStrictEntries_getElem? _ he _ _⟩

/-- Settles O36: the stop is the count of the entries that pass, and the three ends are the status that
the stopping entry gives. -/
theorem strictGroupIsAllOrNothing : Obligations.StrictGroupIsAllOrNothing := by
  rintro g t r hs rfl
  rw [evaluateGroup_strict hs]
  have hstatus := runStrictEntries_status_eq g.sender none g.entries t
  refine ⟨passedCount g.sender none g.entries t, tableBefore g.sender none g.entries t,
    outcomeAt g.sender none g.entries t, strictRun_passedCount g t, strictRecords_passedCount g t,
    fun hn => ?_, outcomeAt_stop rfl, fun hn hf => ?_, fun hn hu => ?_⟩
  · rw [if_pos hn] at hstatus
    rw [runStrict_applied hstatus]
    refine ⟨rfl, fun i => ?_, watchHits_of_passed t _ _ (length_runStrictEntries _ _ _ _)
      (runStrictEntries_passed hn)⟩
    rw [cellAt_takeCopy, runStrictEntries_table]
    exact ⟨rfl, rfl, rfl, by simp⟩
  · rw [if_neg hn.ne, hf, if_neg (by decide)] at hstatus
    rw [runStrict_void hstatus]
    exact ⟨rfl, rfl, rfl⟩
  · rw [if_neg hn.ne, if_pos hu] at hstatus
    rw [runStrict_undetermined hstatus]
    refine ⟨rfl, rfl, fun i hi => ?_, fun i hi hk => ?_, fun i hi hk => ?_⟩
    · exact (cellAt_loseTargets _ _ _).trans (if_neg hi)
    · rw [cellAt_loseTargets, if_pos hi, unknownCell_of_unknown hk]
    · rw [cellAt_loseTargets, if_pos hi, unknownCell_of_known hk]

end Sys2Proof.Machine
end

section
/-!
PROOF. The key won or lost, the framing events, and the transmit mismatch (sections 3.5, 4.3 and 4.5; R12,
R46, R47, R52, R56, R66, R71, R73, R74, R77, R83, R93, R100, R101, R160).
-/
namespace Sys2Proof.Machine

/-! ### The model's operations in the words of the statements -/

theorem dropFdatRead_eq_withoutFdatRead (s : State) : dropFdatRead s = withoutFdatRead s := rfl

theorem abandonFrame_eq_abandoned (s : State) : abandonFrame s = abandoned s := rfl

/-- A step loss empties the answers of an IN-STEP station, and a head that goes takes its count and timer
with it (R92, R109, R112). -/
theorem loseStep_eq_stepLost (s : State) : loseStep s = stepLost s := by
  by_cases hs : s.station = .inStep
  · cases ha : s.answers <;> simp [loseStep, stepLost, setAnswers, hs, ha]
  · simp [loseStep, stepLost, hs]

/-! ### Winning and losing the key (R47, R66, R77) -/

/-- The committed group while an own frame is on the line: the group of a UPD takes the state, any other
frame leaves it (R77). -/
def groupOnLine (body : TxBody) (st : GroupState) (s : State) : Option CommittedGroup :=
  match body with
  | .upd _ => s.committed.map fun g => { g with state := st }
  | .seed => s.committed
  | .freq _ => s.committed
  | .fdat _ => s.committed

theorem winKey_eq (f : TxFrame) (s : State) :
    winKey f s = { s with
      link := .sending, committed := groupOnLine f.body .sending s, txd := lineKey (txKey f) } := by
  rw [← keyLevels_eq_lineKey]
  obtain ⟨e, he⟩ | hne := body_upd_or f.body
  · rw [winKey_upd he, he]; rfl
  · rw [winKey_other hne]
    cases hb : f.body with
    | upd e => exact absurd hb (hne e)
    | seed => rfl
    | freq c => rfl
    | fdat c => rfl

theorem loseSlot_eq (body : TxBody) (s : State) :
    loseSlot body s = { s with committed := groupOnLine body .queued s } := by
  cases body <;> rfl

/-- Bit k of the key on the line, the most significant first (R47). -/
theorem keyLevels_getElem? (key : BitVec 7) (k : Fin 7) :
    (keyLevels key)[k.val]? = some (bitLevel (key.getLsbD (6 - k.val))) := by
  fin_cases k <;> rfl

theorem loseKey_eq {s : State} (hl : s.link = .contending) (k : Fin 7) (f : TxFrame) :
    loseKey k f s = withoutFdatRead { s with
      link := .receiving, txd := (lineKey (txKey f)).take (k.val + 1) ++ [.recessive]
      txFrame := none, committed := groupOnLine f.body .queued s
      rxFrame := some { own := false, verdict := none } } := by
  unfold loseKey
  rw [loseSlot_eq, levelsTo_contending hl]
  cases f.body <;> rfl

/-- Settles O45: the row is the key won, or lost at a recessive bit. -/
theorem keyWonOrLost : Obligations.KeyWonOrLost := by
  intro s f group hl hf hgroup
  obtain rfl : group = fun st => groupOnLine f.body st s := hgroup
  refine ⟨?_, fun k => ⟨fun hk => ?_, fun hk => ?_⟩⟩
  · have he : exec .keyWon s = answer (winKey f s) := by simp [exec, execKeyWon, hl, hf]
    rw [he, winKey_eq]; rfl
  · have he : exec (.contentionLost k) s = answer (loseKey k f s) := by
      simp [exec, execContentionLost, hl, hf, keyLevels_getElem?, hk, bitLevel]
    rw [he, loseKey_eq hl]; rfl
  · simp [exec, execContentionLost, hl, hf, keyLevels_getElem?, hk, bitLevel]

/-! ### The framing events (R52, R56, R71, R83, R93) -/

theorem breakTake_of_abandoned {s : State} (h : s.takeAbandoned = true) :
    breakTake s = { stepLost s with takeAbandoned := false } := by
  rw [breakTake, if_pos h, loseStep_eq_stepLost]; rfl

theorem breakTake_of_not_abandoned {s : State} (h : s.takeAbandoned = false) : breakTake s = s := by
  simp [breakTake, h]

/-- A start mark taken after a frame, or at rest, ends no interval (R52). -/
theorem takeFrame_eq {s : State} (h : s.framing = .rest ∨ s.framing = .gap false) :
    takeFrame s = foreignStartMark s := by
  rcases h with h | h <;> simp [takeFrame, foreignStartMark, h]

/-- A start mark taken in SEARCH comes after line idle (R52, R71, log entry 5). -/
theorem takeFrame_search {s : State} {n : Nat} (h : s.framing = .search n) :
    takeFrame s = foreignStartMark { s with yield := false, takeAbandoned := false } := by
  simp [takeFrame, foreignStartMark, reportIdle, h]

theorem exec_frameTaken {s : State} (hl : s.link = .listen) (hf : takesStartMark s.framing = true) :
    exec .frameTaken s = .next (settle (takeFrame s)) := by
  simp [exec, execFrameTaken, hl, hf, answer]

/-- The rows of GAP: each longer interval passes after the hold limit (Table 3-7). -/
theorem exec_gap {s : State} {late : Bool} (hl : s.link = .listen) (hf : s.framing = .gap late) :
    exec .startMarkNotTaken s
        = .next (settle { s with txd := [.recessive], framing := .search 0, groupBuffer := none })
      ∧ exec .holdLimitExpired s
        = .next (settle { s with txd := [.recessive], framing := .gap true, groupBuffer := none })
      ∧ exec .restReached s
        = .next (settle { s with txd := [.recessive], framing := .rest, groupBuffer := none })
      ∧ exec .lineIdle s
        = .next (settle { s with
            txd := [.recessive], framing := .rest, groupBuffer := none, yield := false
            takeAbandoned := false }) := by
  have hlisten := not_not.2 hl
  refine ⟨?_, ?_, ?_, ?_⟩
  · simp only [exec, execStartMarkNotTaken, if_neg hlisten, hf]; rfl
  · simp only [exec, execHoldLimitExpired, if_neg hlisten, hf]; rfl
  · simp only [exec, execRestReached, if_neg hlisten, hf]; rfl
  · simp only [exec, execLineIdle, if_neg hlisten, hf]; rfl

/-- A dominant bit in SEARCH after less than 12 tb of recessive is no start mark (R52, R93, log entry 8). -/
theorem exec_startMarkNotTaken_search {s : State} {n : Nat} (hl : s.link = .listen)
    (hf : s.framing = .search n) (hn : n < 12) :
    exec .startMarkNotTaken s = .next (settle (undriven { breakTake s with framing := .search 0 })) := by
  have hlisten := not_not.2 hl
  have hlt : ¬ n ≥ Config.lineIdleTb := Nat.not_le.2 hn
  simp only [exec, execStartMarkNotTaken, if_neg hlisten, hf, if_neg hlt]; rfl

theorem exec_brokenTake {s : State} {n : Nat} (hf : s.framing = .search n)
    (ha : s.takeAbandoned = true) :
    exec .brokenTake s = .next (settle { stepLost s with
      txd := [.recessive], framing := .search 0, takeAbandoned := false }) := by
  simp only [exec, execBrokenTake, hf, ha, if_true, breakTake_of_abandoned ha]; rfl

theorem exec_truncation {s : State} (hl : s.link = .receiving) (hf : s.framing = .taking) :
    exec .truncation s = .next (settle { abandoned s with groupBuffer := none }) := by
  rw [← abandonFrame_eq_abandoned]
  simp [exec, execTruncation, hl, hf, answer]

/-- The rows of SEARCH at a station that listens (Table 3-7). -/
theorem exec_search {s : State} {n : Nat} (hl : s.link = .listen) (hf : s.framing = .search n) :
    (n < 12 → s.takeAbandoned = false →
        exec .startMarkNotTaken s
          = .next (settle { s with txd := [.recessive], framing := .search 0 }))
      ∧ (n < 12 → s.takeAbandoned = true →
        exec .startMarkNotTaken s
          = .next (settle { stepLost s with
              txd := [.recessive], framing := .search 0, takeAbandoned := false }))
      ∧ exec .lineIdle s
        = .next (settle { s with
            txd := [.recessive], framing := .search (max n 12), yield := false
            takeAbandoned := false })
      ∧ exec .restReached s
        = .next (settle { s with
            txd := [.recessive], framing := .rest, yield := false, takeAbandoned := false }) := by
  have hlisten := not_not.2 hl
  refine ⟨fun hn ha => ?_, fun hn ha => ?_, ?_, ?_⟩
  · rw [exec_startMarkNotTaken_search hl hf hn, breakTake_of_not_abandoned ha]; rfl
  · rw [exec_startMarkNotTaken_search hl hf hn, breakTake_of_abandoned ha]; rfl
  · simp only [exec, execLineIdle, if_neg hlisten, hf]; rfl
  · simp only [exec, execRestReached, if_neg hlisten, hf]; rfl

/-- Settles O49: row by row, under each framing state that Table 3-7 lists for it. -/
theorem framingFollowsTable : Obligations.FramingFollowsTable := by
  refine ⟨fun s hl => ⟨fun hf => ?_, fun n hf => ?_, fun hf => ?_, fun late hf => exec_gap hl hf,
      fun hf => ?_, fun n hf => exec_search hl hf⟩,
    fun s n hf ha => exec_brokenTake hf ha, fun s hl hf => exec_truncation hl hf⟩
  · have ht : takesStartMark s.framing = true := by rcases hf with hf | hf <;> rw [hf] <;> rfl
    rw [exec_frameTaken hl ht, takeFrame_eq hf]
  · rw [exec_frameTaken hl (by rw [hf]; rfl), takeFrame_search hf]
  · simp [exec, execFrameTaken, hl, hf, takesStartMark]
  · have he : exec .lineIdle s = answer (undriven (reportIdle s)) := by
      simp [exec, execLineIdle, hl, hf]
    rw [he]; rfl

/-! ### Leaving the line (R12, R75, R101, Table 6-3) -/

/-- A running FDAT read's records go nowhere once the station leaves the line (R14, R101). -/
theorem leaveLine_runningDiscarded (st : StationState) (s : State) :
    (leaveLine st s).runningDiscarded = true
      ↔ s.runningDiscarded = true ∨ ∃ c, s.running = some (.fdatRead c) := by
  have hd : (leaveLine st s).runningDiscarded = (dropFdatRead s).runningDiscarded := by
    simp [leaveLine, linkOff, dropFdatRead]
  rw [hd, dropFdatRead]
  rcases hr : s.running with _ | _ | _ | _ | _ | _ <;> simp

/-- A group that the station has committed ends DROPPED with DONE, and no other cause latches (R101, R134). -/
theorem leaveLine_causes (st : StationState) (s : State) :
    (leaveLine st s).latches
        = (if s.committed.isSome then causeSet s.latches .done true else s.latches)
    ∧ (leaveLine st s).details
        = (if s.committed.isSome then causeSet s.details .done 0x07 else s.details)
    ∧ (leaveLine st s).attn
        = (if s.committed.isSome then pinFor (causeSet s.latches .done true) s.attnMask else s.attn) := by
  unfold leaveLine dropGroup
  cases hg : s.committed <;> simp [hg, linkOff, dropFdatRead, groupStatusCode]

theorem causeGet_causeSet_ne {α : Type} {c d : Cause} (h : c ≠ d) (p : PerCause α) (v : α) :
    causeGet (causeSet p d v) c = causeGet p c := by
  cases c <;> cases d <;> simp_all [causeGet, causeSet]

/-- The teardown event, whatever it is that takes the station off the line. -/
theorem leftLine_leaveLine (st : StationState) (s : State) : LeftLine s (leaveLine st s) := by
  obtain ⟨hres, hneed⟩ := leaveLine_group st s
  obtain ⟨hlatch, hdetail, hattn⟩ := leaveLine_causes st s
  have hdisc := leaveLine_runningDiscarded st s
  unfold LeftLine
  rw [hres, hneed, hlatch, hdetail, hattn, hdisc]
  cases hg : s.committed with
  | none =>
    simp [itemsUnderGrant, itemsDiscarded, ownEntryCount_eq_head]
  | some g =>
    have hother : ∀ c, c ≠ .done → c ≠ .fault →
        causeGet (causeSet s.latches .done true) c = causeGet s.latches c
          ∧ causeGet (causeSet s.details .done 0x07) c = causeGet s.details c :=
      fun c hd _ => ⟨causeGet_causeSet_ne hd _ _, causeGet_causeSet_ne hd _ _⟩
    have hdone : (causeSet s.latches .done true).done = true ∧ (causeSet s.details .done 0x07).done = 0x07 :=
      ⟨rfl, rfl⟩
    simpa [itemsUnderGrant, itemsDiscarded, ownEntryCount_eq_head] using ⟨hdone, hother⟩

/-! ### A transmit mismatch (R73, R74, R100) -/

/-- What an own frame has still to put on TXD after the last step of the line (R160). -/
theorem restLevels_eq (f : TxFrame) (s : State) :
    restLevels f s = (ownLine f s.fdatCopy).drop (bitsBehind s.link f) := by
  rw [restLevels, txLevels_eq_ownLine]

/-- A mismatch at a bit that the station drives in its link state (R73, log entry 14). -/
theorem mismatchFits_frame {s : State} {f : TxFrame} {k : Nat} {level : Level}
    (hbit : (ownLine f s.fdatCopy)[k]? = some level)
    (hlink : (s.link = .contending ∧ k ≤ 7 ∧ level = .dominant)
      ∨ (s.link = .sending ∧ (f.index = 0 → 8 ≤ k))) :
    mismatchFits (.frame k) f s = true := by
  have hdriven : drivenLevel k f s = some level := by
    rw [drivenLevel, txLevels_eq_ownLine, if_pos, hbit]
    exact hlink.imp (fun ⟨hl, hk, _⟩ => ⟨hl, hk⟩) fun ⟨hl, hk⟩ => ⟨hl, imp_iff_not_or.1 hk⟩
  rcases hlink with ⟨_, _, hd⟩ | ⟨hl, _⟩
  · simp [mismatchFits, hdriven, hd]
  · simp [mismatchFits, hdriven, hl]

/-- What TXD has carried at such a bit, the start mark alone or the bits since the last step (R160). -/
theorem mismatchLevels_frame {s : State} {f : TxFrame} {k : Nat}
    (hlink : s.link = .contending ∨ (s.link = .sending ∧ (f.index = 0 → 8 ≤ k))) :
    mismatchLevels (.frame k) f s = if k = 0 then [.dominant]
      else ((ownLine f s.fdatCopy).take (k + 1)).drop (bitsBehind s.link f) := by
  refine levelsTo_eq (or_iff_not_imp_left.2 fun hk => ?_)
  unfold bitsBehind
  split_ifs with h
  · rcases hlink with hl | ⟨_, hbit⟩
    · rw [hl] at h; cases h.1
    · exact hbit h.2
  · exact Nat.pos_of_ne_zero hk

/-- A mismatch in the VETO slot of a sender that was BUSY in its turnaround (R78, R79, log entry 14). -/
theorem mismatchFits_vetoSlot {s : State} {f : TxFrame} {ended : Nat} (hl : s.link = .sending)
    (hbusy : 2 ≤ turnaroundItems ended s)
    (hbody : (∃ e, f.body = .upd e ∧ f.last = true)
      ∨ (∃ c, f.body = .fdat c ∧ s.fdatCopy.isSome = true) ∨ f.body = .seed) :
    mismatchFits (.vetoSlot ended) f s = true := by
  have hb : busyTurnaround ended s = true := decide_eq_true hbusy
  obtain ⟨hc, ht⟩ : (txContents f s.fdatCopy).isSome = true ∧ txCompletes f = true := by
    rcases hbody with ⟨e, he, hlast⟩ | ⟨c, hc, hcopy⟩ | hs
    · simp [txContents, txCompletes, he, hlast]
    · simp [txContents, txCompletes, hc, hcopy]
    · simp [txContents, txCompletes, hs]
  simp [mismatchFits, hl, hc, ht, hb]

theorem exec_transmitMismatch {s : State} {f : TxFrame} {bit : MismatchBit} (hf : s.txFrame = some f)
    (hfits : mismatchFits bit f s = true) :
    exec (.transmitMismatch bit) s = .next (settle (stopFrame bit f s)) := by
  simp [exec, execTransmitMismatch, hf, hfits, answer]

theorem causeSet_fault_done {α : Type} (p : PerCause α) (v : α) : (causeSet p .fault v).done = p.done :=
  rfl

/-- A station that has left the line and latches FAULT, TXD keeping what its last frame put there, has
still left the line (R100, R101). -/
theorem LeftLine.faulted {s t : State} (h : LeftLine s t) (d : Byte) (levels : List Level) :
    LeftLine s (stopDriving levels (latchCause .fault d t)) := by
  have hother {α : Type} (p : PerCause α) (v : α) (c : Cause) (hc : c ≠ .fault) :
      causeGet (causeSet p .fault v) c = causeGet p c := causeGet_causeSet_ne hc p v
  unfold LeftLine at h ⊢
  simp_all [causeSet_fault_done]

/-- The fourth mismatch in a row is the teardown (R74, R100, R101). -/
theorem leftLine_stopFaulted (levels : List Level) (s : State) :
    LeftLine s (stopDriving levels (enterFaulted s)) :=
  LeftLine.faulted (leftLine_leaveLine .faulted { s with mismatch := Config.faultMismatches }) _ _

/-- A SEED command that waits completes when the station enters FAULTED, and no other does (R12, R101). -/
theorem enterFaulted_port (s : State) : (enterFaulted s).port
    = if portWaits .seedSlot s then portWithResult [codeByte .dropped] s.port else s.port := by
  simp [enterFaulted, portWaits]

/-- Settles O47: the row's guard and levels from the bit, and its effect from the count. -/
theorem transmitMismatchStopsFrame : Obligations.TransmitMismatchStopsFrame := by
  rintro s f bit n behind levels bits hf rfl hbehind hbit
  obtain rfl : behind = bitsBehind s.link f := hbehind
  obtain ⟨hfits, hn, hlevels⟩ : mismatchFits bit f s = true ∧ n = mismatchBefore bit s + 1
      ∧ levels = mismatchLevels bit f s := by
    rcases hbit with ⟨k, level, rfl, hn, hk, hlink, hlevels⟩ | ⟨ended, rfl, hn, hl, hbusy, hbody, hlevels⟩
    · exact ⟨mismatchFits_frame hk hlink, hn,
        hlevels.trans (mismatchLevels_frame (hlink.imp_left And.left)).symm⟩
    · refine ⟨mismatchFits_vetoSlot hl hbusy hbody, hn, hlevels.trans ?_⟩
      rw [mismatchLevels, restLevels_eq, windowLevels_eq_lineWindow]
  subst hn hlevels
  rw [exec_transmitMismatch hf hfits]
  refine ⟨fun hlt => ?_, fun hge => ⟨_, by rw [stopFrame_faulted hge], by simp, by simp,
    leftLine_stopFaulted _ _, by simp, ?_⟩⟩
  · rw [stopFrame_counted (Nat.not_le.2 hlt), dropFdatRead_eq_withoutFdatRead,
      abandonFrame_eq_abandoned]
    rfl
  · refine ⟨by simp [enterFaulted, causeSet], by simp [enterFaulted, causeSet, Config.faultMismatches],
      by simp [enterFaulted], by simp, by simp [enterFaulted], fun hw => ?_, fun hp => ?_⟩
    · simp [enterFaulted_port, hw]
    · have hw : portWaits .seedSlot s = true := by simp [portWaits, hp, waitingPort]
      simp [enterFaulted_port, hw, hp, portWithResult_waiting, codePort]

end Sys2Proof.Machine
end

section
/-!
PROOF. The acknowledge window at the sender (sections 4.4 and 5.4; R46, R47, R69, R71, R73, R74, R79, R87 to
R89, R160).
-/
namespace Sys2Proof.Machine

/-! ### An own frame and its contents (R67, R68) -/

/-- The header and the body of an own frame's contents are the frame's own, an FDAT's with the copied
records (R67, R68). -/
theorem txContents_eq_some {tx : TxFrame} {copy : Option ChunkData} {f : Frame}
    (h : txContents tx copy = some f) :
    ∃ body, f = { sender := tx.station, inStep := tx.inStep, last := tx.last, strict := tx.strict
                  index := tx.index, body := body }
      ∧ ((tx.body = .seed ∧ body = .seed) ∨ (∃ c, tx.body = .freq c ∧ body = .freq c)
        ∨ (∃ e, tx.body = .upd e ∧ body = .upd e)
        ∨ ∃ c d, tx.body = .fdat c ∧ copy = some d ∧ body = .fdat c d) := by
  unfold txContents at h
  cases hb : tx.body with
  | fdat c =>
    obtain ⟨d, hd, rfl⟩ := Option.map_eq_some_iff.1 (by simpa only [hb] using h)
    exact ⟨_, rfl, by simp [hd]⟩
  | seed => rw [hb] at h; cases h; exact ⟨_, rfl, by simp⟩
  | freq c => rw [hb] at h; cases h; exact ⟨_, rfl, by simp⟩
  | upd e => rw [hb] at h; cases h; exact ⟨_, rfl, by simp⟩

/-- The body of an own frame's contents is the frame's own (R67, R68). -/
theorem txContents_body {tx : TxFrame} {copy : Option ChunkData} {f : Frame}
    (h : txContents tx copy = some f) :
    (tx.body = .seed → f.body = .seed) ∧ (∀ c, tx.body = .freq c → f.body = .freq c)
      ∧ (∀ e, tx.body = .upd e → f.body = .upd e)
      ∧ ∀ c, tx.body = .fdat c → ∃ d, copy = some d ∧ f.body = .fdat c d := by
  obtain ⟨body, rfl, hb⟩ := txContents_eq_some h
  rcases hb with ⟨hb, rfl⟩ | ⟨c, hb, rfl⟩ | ⟨e, hb, rfl⟩ | ⟨c, d, hb, hd, rfl⟩
  · simp [hb]
  · simp [hb]
  · simp [hb]
  · simp [hb, hd]

/-- The key and the header bytes of an own frame are those of its contents (R48, R67). -/
theorem txKey_eq {tx : TxFrame} {copy : Option ChunkData} {f : Frame}
    (h : txContents tx copy = some f) :
    txHeader tx = [(rawFrame f).h1, (rawFrame f).h2] ∧ txKey tx = (rawFrame f).key := by
  obtain ⟨body, rfl, hb⟩ := txContents_eq_some h
  obtain hk : txKind tx.body = bodyKind body := by
    rcases hb with ⟨hb, rfl⟩ | ⟨_, hb, rfl⟩ | ⟨_, hb, rfl⟩ | ⟨_, _, hb, _, rfl⟩ <;> rw [hb] <;> rfl
  simp [txHeader, txKey, rawFrame, hk]

/-- The bytes of a frame from H1 to the second check byte (R46). -/
def sentBytes (r : RawFrame) : List Byte := [r.h1, r.h2] ++ r.payload ++ [r.checkHigh, r.checkLow]

/-- What SENDING puts on TXD: every byte, and the key of a held frame, whose start mark alone is behind
(R46, R47, R160). -/
theorem restLevels_sending {s : State} {tx : TxFrame} {f : Frame} (hl : s.link = .sending)
    (h : txContents tx s.fdatCopy = some f) :
    restLevels tx s = (if f.index = 0 then [] else lineKey (rawFrame f).key)
      ++ lineBytes (sentBytes (rawFrame f)) := by
  have hindex : f.index = tx.index := by obtain ⟨_, rfl, _⟩ := txContents_eq_some h; rfl
  have hlen : (lineKey (rawFrame f).key).length = 7 := rfl
  rw [restLevels_eq, ownLine, h, (txKey_eq h).2, bitsBehind, hindex]
  change ([Level.dominant] ++ lineKey (rawFrame f).key ++ lineBytes (sentBytes (rawFrame f))).drop _ = _
  by_cases hi : tx.index = 0
  · simp [hl, hi, hlen]
  · rw [if_neg hi, if_neg fun h => hi h.2]
    rfl

/-! ### The slot decided and the outcome read (R69, R79, R80) -/

/-- The sender vetoes its own completing frame at a full list (R79). -/
theorem senderSlot_eq {s : State} {f : Frame} {ended : Nat} {busy : Bool} (hq : s.config.quiet = false)
    (hb : busy = true ↔ completesItem f = true ∧ 2 ≤ turnaroundItems ended s) :
    senderSlot ended s f = if busy then .veto else .neither := by
  have hbusy : busyTurnaround ended s = decide (2 ≤ turnaroundItems ended s) := rfl
  have hc : busy = (completesItem f && busyTurnaround ended s) := by
    rw [Bool.eq_iff_iff, hb, hbusy, Bool.and_eq_true, decide_eq_true_eq]
  rw [senderSlot, hc, hq, Bool.not_false, Bool.true_and]

/-- A dominant VETO slot agrees with whatever slot was driven (R80). -/
theorem slotReadBack_rejected {slots : SlotsRead} (h : slots.veto = true) (slot : SlotChoice) :
    slotReadBack slots slot = true := by
  cases slot <;> simp [slotReadBack, h]

/-- A window with a dominant VETO slot rejects (R80). -/
theorem windowReads_eq_rejected (slots : SlotsRead) :
    windowReads slots = .rejected ↔ slots.veto = true := by
  unfold windowReads; split_ifs <;> simp_all

/-- An own frame counts as accepted when it is not vetoed and was accepted, or solo stands (R69, R89). -/
theorem countsAccepted_iff (solo : Bool) (slots : SlotsRead) :
    countsAccepted solo (windowReads slots) = true
      ↔ slots.veto = false ∧ (slots.accept = true ∨ solo = true) := by
  unfold windowReads; split_ifs <;> simp_all [countsAccepted]

/-! ### The end of an own frame's window -/

/-- The state at the end of an own frame's VETO slot, before its outcome is acted on (R69, R71, R74, R160). -/
def ownWindowEnded (f : Frame) (slot : SlotChoice) (veto : Bool) (s : State) : State :=
  { windowEnded true (.sound f) slot s with
    txd := (if f.index = 0 then [] else lineKey (rawFrame f).key) ++ lineBytes (sentBytes (rawFrame f))
      ++ lineWindow slot
    fdatCopy := none, mismatch := 0, yield := s.yield || setsYield f
    groupBuffer := if veto then none else s.groupBuffer }

theorem senderWindow_eq {s : State} {tx : TxFrame} {f : Frame} (hl : s.link = .sending)
    (hc : txContents tx s.fdatCopy = some f) (slot : SlotChoice) (slots : SlotsRead) :
    senderWindow tx f slot (windowReads slots) s
      = if slots.veto = false ∧ (slots.accept = true ∨ s.config.solo = true) then
          ownAccepted f (ownWindowEnded f slot slots.veto s)
        else countAttempt tx.body { ownWindowEnded f slot slots.veto s with txFrame := none } := by
  unfold senderWindow
  rw [restLevels_sending hl hc, windowLevels_eq_lineWindow]
  simp only [windowReads_eq_rejected, countsAccepted_iff]
  rfl

/-- An accepted group frame that is not the last is held on (R69, R88). -/
theorem ownAccepted_held {f : Frame} {e : Entry} (hb : f.body = .upd e) (hlast : f.last = false)
    (s : State) : ownAccepted f s = { s with link := .holding } := by
  simp [ownAccepted, hb, hlast]

/-- The accepted last frame hands the own group to the apply list (R88, R127). -/
theorem ownAccepted_last {f : Frame} {e : Entry} {g : CommittedGroup} {s : State}
    (hb : f.body = .upd e) (hlast : f.last = true) (hg : s.committed = some g) :
    ownAccepted f s = { s with
      txFrame := none, committed := none, groupTimer := none, applyPending := true
      items := s.items ++ [.group ⟨f.sender, g.strict, g.entries, true⟩] } := by
  simp [ownAccepted, hb, hlast, ownGroupAccepted, hg, appendItem]

/-- WINDOW_OUTCOME of an own frame: no window when RXD does not show the slot it drove (R73, R80). -/
theorem exec_windowOutcome_sending {s : State} {tx : TxFrame} {f : Frame} (hf : s.framing = .taking)
    (hl : s.link = .sending) (ht : s.txFrame = some tx) (hc : txContents tx s.fdatCopy = some f)
    (r : RawFrame) (slots : SlotsRead) (ended : Nat) :
    exec (.windowOutcome r slots ended) s
      = if slotReadBack slots (senderSlot ended s f) then
          .next (settle (senderWindow tx f (senderSlot ended s f) (windowReads slots) s))
        else .fault .slotNotRead := by
  simp [exec, execWindowOutcome, hf, hl, ht, hc, answer]

/-- Settles O52: the guard from the slot decided, the state from the end of the window, and the outcome
frame kind by frame kind. -/
theorem senderReadsOwnWindow : Obligations.SenderReadsOwnWindow := by
  intro s tx f r slots ended busy slot u hf hl ht hq hc hbusy hslot hu
  have hsel : senderSlot ended s f = slot := (senderSlot_eq hq hbusy).trans hslot.symm
  have hexec := exec_windowOutcome_sending hf hl ht hc r slots ended
  rw [hsel, senderWindow_eq hl hc] at hexec
  have hu' : u = { ownWindowEnded f slot slots.veto s with txFrame := none } := hu
  obtain ⟨body, rfl, hbody⟩ := txContents_eq_some hc
  refine ⟨⟨rfl, rfl, rfl, rfl, rfl, ?_⟩, fun hb hv => ?_, fun h => ?_, fun hv hb h => ?_⟩
  · exact txContents_body hc
  · have hno : slotReadBack slots slot = false := by rw [hslot, hb]; exact hv
    rw [hexec, if_neg (by rw [hno]; decide)]
  · have hread : slotReadBack slots slot = true := by
      rcases h with hv | ⟨hb, _⟩
      · exact slotReadBack_rejected hv slot
      · rw [hslot, hb]; rfl
    rw [hexec, if_pos hread, if_neg, hu']
    rintro ⟨hv, ha⟩
    rcases h with h | ⟨_, hno, hsolo⟩
    · rw [hv] at h; cases h
    · rw [hno, hsolo] at ha; simp at ha
  · have hread : slotReadBack slots slot = true := by rw [hslot, hb]; rfl
    rw [hexec, if_pos hread, if_pos ⟨hv, h⟩, hu']
    rcases hbody with ⟨hb, rfl⟩ | ⟨c, hb, rfl⟩ | ⟨e, hb, rfl⟩ | ⟨c, d, hb, hd, rfl⟩ <;> rw [hb]
    · exact ⟨fun _ h => (nomatch h), fun _ _ h => (nomatch h), fun _ h => (nomatch h),
        fun _ _ h => (nomatch h), fun _ => rfl⟩
    · exact ⟨fun _ h => (nomatch h), fun _ _ h => (nomatch h),
        fun _ h => by rw [← TxBody.freq.inj h]; rfl, fun _ _ h => (nomatch h), fun h => (nomatch h)⟩
    · refine ⟨fun _ _ hlast => ?_, fun _ g _ hlast hg => ?_, fun _ h => (nomatch h),
        fun _ _ h => (nomatch h), fun h => (nomatch h)⟩
      · rw [ownAccepted_held rfl hlast, ← ht]; rfl
      · rw [ownAccepted_last (s := ownWindowEnded _ slot slots.veto s) rfl hlast hg]; rfl
    · refine ⟨fun _ h => (nomatch h), fun _ _ h => (nomatch h), fun _ h => (nomatch h),
        fun _ d' h hd' => ?_, fun h => (nomatch h)⟩
      rw [← TxBody.fdat.inj h, ← Option.some.inj (hd.symm.trans hd')]; rfl

end Sys2Proof.Machine
end

section
/-!
PROOF. Frames (chapters 3 and 10): the bytes of an entry, a header, a record and a frame spell what they were
built from, and a frame read to its window is FAULTY exactly when it has a defect (R46 to R50, R54, R57 to
R59, R159).
-/
namespace Sys2Proof.Machine

/-! ### Bits, values, owners and chunks -/

theorem isSet_extractLsb' (b : Byte) (k : Nat) : isSet (b.extractLsb' k 1) = b.getLsbD k := by
  have h (x : BitVec 1) : isSet x = x.getLsbD 0 := by revert x; decide
  simp [h]

theorem joinBytes_highByte_lowByte (v : Value) : joinBytes (highByte v) (lowByte v) = v :=
  (BitVec.extractLsb'_append_extractLsb'_eq_extractLsb' rfl).trans BitVec.extractLsb'_eq_self

theorem toNat_ownerByte_some (n : Station) : (ownerByte (some n)).toNat = n.val := by
  have := n.isLt
  simp [ownerByte]; omega

theorem ownerOfByte_ownerByte (o : Owner) : ownerOfByte (ownerByte o) = o := by
  cases o with
  | none => rfl
  | some n => simp [ownerOfByte, toNat_ownerByte_some]

theorem isOwnerByte_ownerByte (o : Owner) : isOwnerByte (ownerByte o) = true := by
  cases o with
  | none => rfl
  | some n => simp [isOwnerByte, toNat_ownerByte_some]

/-- A byte that names an owner is the byte of the owner it names (Table 10-5). -/
theorem ownerByte_ownerOfByte {b : Byte} (h : isOwnerByte b = true) : ownerByte (ownerOfByte b) = b := by
  unfold ownerOfByte
  split_ifs with hb
  · simp [ownerByte]
  · have hnone : b = 0xFF := by simpa [isOwnerByte, hb] using h
    rw [hnone]; rfl

theorem isOwnerByte_eq_false_iff (b : Byte) : isOwnerByte b = false ↔ 31 < b.toNat ∧ b ≠ 0xFF := by
  have hlt : 31 < b.toNat ↔ ¬ b.toNat < 32 := by omega
  rw [isOwnerByte, Bool.or_eq_false_iff, decide_eq_false_iff_not, beq_eq_false_iff_ne, hlt]

theorem chunkOfByte_ofNat (c : Chunk) : chunkOfByte (BitVec.ofNat 8 c.val) = some c := by
  have hc : (BitVec.ofNat 8 c.val).toNat = c.val := by
    have := c.isLt
    simp; omega
  simp [chunkOfByte, hc]

theorem chunkOfByte_eq_none_iff (b : Byte) : chunkOfByte b = none ↔ 15 < b.toNat := by
  have hlt : 15 < b.toNat ↔ ¬ b.toNat < 16 := by omega
  unfold chunkOfByte
  split_ifs with hb <;> simp [hlt, hb]

theorem chunkOfByte_eq_some {b : Byte} {c : Chunk} (h : chunkOfByte b = some c) : c.val = b.toNat := by
  unfold chunkOfByte at h
  split_ifs at h
  cases h; rfl

/-! ### The update entry (Table 10-6, R159) -/

theorem sourceOfCode_sourceCode (x : OperandSource) : sourceOfCode (sourceCode x) = x := by
  cases x <;> rfl

theorem ownerTestOfCode_ownerTestCode (x : OwnerTest) : ownerTestOfCode (ownerTestCode x) = x := by
  cases x <;> rfl

theorem ownerActionOfCode_ownerActionCode (x : OwnerAction) :
    ownerActionOfCode (ownerActionCode x) = x := by cases x <;> rfl

theorem matchOfCode_matchCode (x : MatchFn) : matchOfCode (matchCode x) = x := by cases x <;> rfl

theorem magnitudeOfCode_magnitudeCode (x : MagnitudeFn) : magnitudeOfCode (magnitudeCode x) = x := by
  cases x <;> rfl

theorem actionOfCode_actionCode (x : ValueAction) : actionOfCode (actionCode x) = x := by
  cases x <;> rfl

/-- The fields of byte 1 lie where Table 10-6 has them. -/
theorem entryByte1_fields (e : Entry) :
    (entryByte1 e).getLsbD 0 = e.plain ∧ (entryByte1 e).getLsbD 1 = e.chain
      ∧ (entryByte1 e).extractLsb' 2 1 = sourceCode e.source
      ∧ (entryByte1 e).extractLsb' 3 2 = ownerTestCode e.ownerTest
      ∧ (entryByte1 e).extractLsb' 5 2 = ownerActionCode e.ownerAction
      ∧ (entryByte1 e).extractLsb' 7 1 = e.unused1 := by
  unfold entryByte1
  refine ⟨?_, ?_, ?_, ?_, ?_, ?_⟩
  · simp only [BitVec.getLsbD_append]; simp
  · simp only [BitVec.getLsbD_append]; simp
  all_goals simp (disch := omega) only [BitVec.extractLsb'_append_eq_of_le,
    BitVec.extractLsb'_append_eq_of_add_le, BitVec.extractLsb'_eq_self, Nat.reduceSub]

/-- The fields of byte 2 lie where Table 10-6 has them. -/
theorem entryByte2_fields (e : Entry) :
    (entryByte2 e).extractLsb' 0 2 = matchCode e.matchFn
      ∧ (entryByte2 e).extractLsb' 2 3 = magnitudeCode e.magnitudeFn
      ∧ (entryByte2 e).extractLsb' 5 3 = e.unused2 := by
  unfold entryByte2
  refine ⟨?_, ?_, ?_⟩
  all_goals simp (disch := omega) only [BitVec.extractLsb'_append_eq_of_le,
    BitVec.extractLsb'_append_eq_of_add_le, BitVec.extractLsb'_eq_self, Nat.reduceSub]

/-- The fields of byte 3 lie where Table 10-6 has them. -/
theorem entryByte3_fields (e : Entry) :
    (entryByte3 e).extractLsb' 0 3 = actionCode e.passAction
      ∧ (entryByte3 e).extractLsb' 3 3 = actionCode e.failAction
      ∧ (entryByte3 e).extractLsb' 6 2 = e.unused3 := by
  unfold entryByte3
  refine ⟨?_, ?_, ?_⟩
  all_goals simp (disch := omega) only [BitVec.extractLsb'_append_eq_of_le,
    BitVec.extractLsb'_append_eq_of_add_le, BitVec.extractLsb'_eq_self, Nat.reduceSub]

/-- Fourteen bytes spell the entry they were built from, unused bits included (R159). -/
theorem entryOfBytes_entryBytes (e : Entry) : entryOfBytes (entryBytes e) = e := by
  obtain ⟨hplain, hchain, hsource, htest, haction, hunused1⟩ := entryByte1_fields e
  obtain ⟨hmatch, hmagnitude, hunused2⟩ := entryByte2_fields e
  obtain ⟨hpass, hfail, hunused3⟩ := entryByte3_fields e
  simp only [entryOfBytes, entryBytes, byteAt, valueAt, List.getD_cons_zero, List.getD_cons_succ,
    isSet_extractLsb', joinBytes_highByte_lowByte, hplain, hchain, hsource, htest, haction, hunused1,
    hmatch, hmagnitude, hunused2, hpass, hfail, hunused3, sourceOfCode_sourceCode,
    ownerTestOfCode_ownerTestCode, ownerActionOfCode_ownerActionCode, matchOfCode_matchCode,
    magnitudeOfCode_magnitudeCode, actionOfCode_actionCode]

/-! ### Key and header (Tables 10-1 and 10-2) -/

theorem frameKey_fields (kind : FrameKind) (n : Station) :
    (frameKey kind n).extractLsb' 5 2 = kindClass kind
      ∧ ((frameKey kind n).extractLsb' 0 5).toNat = n.val := by
  unfold frameKey
  refine ⟨BitVec.extractLsb'_append_eq_left, ?_⟩
  rw [BitVec.extractLsb'_append_eq_right, BitVec.toNat_ofNat]
  exact Nat.mod_eq_of_lt n.isLt

theorem keyStation_frameKey (kind : FrameKind) (n : Station) : keyStation (frameKey kind n) = n := by
  rw [keyStation, (frameKey_fields kind n).2]
  exact Fin.ext (Nat.mod_eq_of_lt n.isLt)

theorem headerByte_fields (kind : FrameKind) (inStep last strict : Bool) (index : BitVec 3) :
    (headerByte kind inStep last strict index).extractLsb' 6 2 = kindCode kind
      ∧ (headerByte kind inStep last strict index).getLsbD 5 = inStep
      ∧ (headerByte kind inStep last strict index).getLsbD 4 = last
      ∧ (headerByte kind inStep last strict index).getLsbD 3 = strict
      ∧ (headerByte kind inStep last strict index).extractLsb' 0 3 = index := by
  unfold headerByte
  refine ⟨?_, ?_, ?_, ?_, BitVec.extractLsb'_append_eq_right⟩
  · simp (disch := omega) only [BitVec.extractLsb'_append_eq_of_le, BitVec.extractLsb'_eq_self,
      Nat.reduceSub]
  all_goals simp only [BitVec.getLsbD_append]; simp

theorem kindOfH1_of_code {h : Byte} {kind : FrameKind} (hk : h.extractLsb' 6 2 = kindCode kind) :
    kindOfH1 h = kind := by
  unfold kindOfH1
  rw [hk]
  cases kind <;> rfl

/-- H1 and the key read back as what the frame was built from (R48, Tables 10-1 and 10-2). -/
theorem rawFrame_header (f : Frame) :
    kindOfH1 (rawFrame f).h1 = bodyKind f.body ∧ h1InStep (rawFrame f).h1 = f.inStep
      ∧ h1Last (rawFrame f).h1 = f.last ∧ h1Strict (rawFrame f).h1 = f.strict
      ∧ h1Index (rawFrame f).h1 = f.index ∧ keyStation (rawFrame f).key = f.sender
      ∧ keyClass (rawFrame f).key = kindClass (bodyKind f.body) := by
  obtain ⟨hkind, hstep, hlast, hstrict, hindex⟩ :=
    headerByte_fields (bodyKind f.body) f.inStep f.last f.strict f.index
  exact ⟨kindOfH1_of_code hkind, hstep, hlast, hstrict, hindex, keyStation_frameKey _ _,
    (frameKey_fields _ _).1⟩

/-! ### The records of an FDAT (Table 10-5) -/

/-- Byte j of record k among a chunk's bytes. -/
theorem getElem?_flatMap_cellRecordBytes {l : List CellRecord} {k j : Nat} {x : CellRecord}
    (h : l[k]? = some x) (hj : j < 4) :
    (l.flatMap cellRecordBytes)[4 * k + j]? = (cellRecordBytes x)[j]? := by
  induction l generalizing k with
  | nil => simp at h
  | cons r l ih =>
    rw [List.flatMap_cons]
    cases k with
    | zero =>
      obtain rfl : r = x := by simpa using h
      rw [Nat.mul_zero, Nat.zero_add,
        List.getElem?_append_left (show j < (cellRecordBytes r).length from hj)]
    | succ k =>
      rw [← ih (by simpa using h), List.getElem?_append_right (by simp [cellRecordBytes]; omega)]
      congr 1
      simp [cellRecordBytes]; omega

theorem length_flatMap_cellRecordBytes (l : List CellRecord) :
    (l.flatMap cellRecordBytes).length = 4 * l.length := by
  simp [List.length_flatMap, cellRecordBytes, Nat.mul_comm]

/-- The four bytes of record k of an FDAT's payload. -/
theorem fdatBytes_record {d : ChunkData} {k : Nat} {x : CellRecord} (h : d.records[k]? = some x)
    (c : Chunk) :
    (bodyBytes (.fdat c d)).getD (4 * k + 1) 0 = highByte x.value
      ∧ (bodyBytes (.fdat c d)).getD (4 * k + 2) 0 = lowByte x.value
      ∧ (bodyBytes (.fdat c d)).getD (4 * k + 3) 0 = ownerByte x.owner
      ∧ (bodyBytes (.fdat c d)).getD (4 * k + 4) 0 = x.seq := by
  have hbyte (j : Nat) (hj : j < 4) :
      (bodyBytes (.fdat c d)).getD (4 * k + j + 1) 0 = (cellRecordBytes x).getD j 0 := by
    rw [bodyBytes, List.getD_cons_succ, List.getD_eq_getElem?_getD,
      getElem?_flatMap_cellRecordBytes h hj, List.getD_eq_getElem?_getD]
  exact ⟨hbyte 0 (by decide), hbyte 1 (by decide), hbyte 2 (by decide), hbyte 3 (by decide)⟩

theorem payloadRecord_fdatBytes {d : ChunkData} {k : Nat} {x : CellRecord}
    (h : d.records[k]? = some x) (c : Chunk) : payloadRecord (bodyBytes (.fdat c d)) k = x := by
  obtain ⟨hhigh, hlow, howner, hseq⟩ := fdatBytes_record h c
  simp only [payloadRecord, valueAt, byteAt, hhigh, hlow, howner, hseq, joinBytes_highByte_lowByte,
    ownerOfByte_ownerByte]

theorem exists_record (d : ChunkData) {k : Nat} (hk : k < 16) : ∃ x, d.records[k]? = some x :=
  ⟨_, List.getElem?_eq_getElem (d.size.symm ▸ hk)⟩

theorem payloadData_fdatBytes (c : Chunk) (d : ChunkData) : payloadData (bodyBytes (.fdat c d)) = d := by
  obtain ⟨records, size⟩ := d
  have h : (payloadData (bodyBytes (.fdat c ⟨records, size⟩))).records = records := by
    refine List.ext_getElem (by simp [payloadData, size]) fun k hk hk' => ?_
    have hrecord := payloadRecord_fdatBytes (d := ⟨records, size⟩) (List.getElem?_eq_getElem hk') c
    simpa [payloadData] using hrecord
  unfold payloadData at h ⊢
  simpa using h

theorem payloadOwnersFit_fdatBytes (c : Chunk) (d : ChunkData) :
    payloadOwnersFit (bodyBytes (.fdat c d)) = true := by
  refine List.all_eq_true.2 fun k hk => ?_
  obtain ⟨x, hx⟩ := exists_record d (List.mem_range.1 hk)
  obtain ⟨_, _, howner, _⟩ := fdatBytes_record hx c
  rw [byteAt, howner]
  exact isOwnerByte_ownerByte _

theorem length_bodyBytes (b : FrameBody) : (bodyBytes b).length = payloadLength (bodyKind b) := by
  cases b with
  | fdat c d => rw [bodyBytes, List.length_cons, length_flatMap_cellRecordBytes, d.size]; rfl
  | seed => rfl
  | freq c => rfl
  | upd e => rfl

/-! ### Judging a frame (R54, R57 to R59) -/

/-- A frame is SOUND with the contents its bytes spell, when they spell some, its header fits, it meets the
expectation and its check matches (R54). -/
theorem judgeFrame_eq_sound_iff (g : Option OpenGroup) (r : RawFrame) (f : Frame) :
    judgeFrame g r = .sound f ↔ ∃ body, payloadBody (kindOfH1 r.h1) (h1Index r.h1) r.payload = some body
      ∧ headerFits r = true ∧ expectationMet g r = true ∧ checkMatches r = true
      ∧ f = { sender := keyStation r.key, inStep := h1InStep r.h1, last := h1Last r.h1
              strict := h1Strict r.h1, index := h1Index r.h1, body := body } := by
  unfold judgeFrame
  split
  · next h => simp [h]
  · next body h =>
    split_ifs with hc
    · obtain ⟨⟨hhead, hexp⟩, hcheck⟩ : (headerFits r = true ∧ expectationMet g r = true)
        ∧ checkMatches r = true := by simpa using hc
      simp [h, hhead, hexp, hcheck, eq_comm (b := f)]
    · simp_all

/-- A frame is FAULTY at any of the four kinds of defect (R57 to R59). -/
theorem judgeFrame_eq_faulty_iff (g : Option OpenGroup) (r : RawFrame) :
    judgeFrame g r = .faulty ↔ payloadBody (kindOfH1 r.h1) (h1Index r.h1) r.payload = none
      ∨ headerFits r = false ∨ expectationMet g r = false ∨ checkMatches r = false := by
  unfold judgeFrame
  split
  · next h => simp [h]
  · next body h =>
    split_ifs with hc
    · simp_all
    · rw [Bool.not_eq_true, Bool.and_eq_false_iff, Bool.and_eq_false_iff, or_assoc] at hc
      simpa [h] using hc

/-- The payload defects of R57, by kind. -/
theorem payloadBody_eq_none_iff (kind : FrameKind) (index : BitVec 3) (payload : List Byte) :
    payloadBody kind index payload = none
      ↔ ((kind = .freq ∨ kind = .fdat) ∧ 15 < (payload.getD 0 0).toNat)
        ∨ (kind = .fdat ∧ ∃ k, k < 16 ∧ 31 < (payload.getD (4 * k + 3) 0).toNat
          ∧ payload.getD (4 * k + 3) 0 ≠ 0xFF)
        ∨ (kind = .upd ∧ Illegal index.toNat (entryOfBytes payload)) := by
  cases kind with
  | seed => simp [payloadBody]
  | freq => simp [payloadBody, byteAt, chunkOfByte_eq_none_iff]
  | fdat =>
    have howners : payloadOwnersFit payload = false ↔ ∃ k, k < 16
        ∧ 31 < (payload.getD (4 * k + 3) 0).toNat ∧ payload.getD (4 * k + 3) 0 ≠ 0xFF := by
      simp only [payloadOwnersFit, List.all_eq_false, List.mem_range, byteAt, Bool.not_eq_true,
        isOwnerByte_eq_false_iff]
    rw [← howners]
    unfold payloadBody
    dsimp only
    split_ifs with h
    · simp [h, byteAt, chunkOfByte_eq_none_iff]
    · simp [h]
  | upd =>
    have hlegal := entryLegal_iff index.toNat (entryOfBytes payload)
    unfold payloadBody
    dsimp only
    split_ifs with h
    · simpa using hlegal.1 h
    · simpa [h] using hlegal

/-- H2 is the length of its kind (R57, Table 3-3). -/
theorem length_eq_iff (h2 : Byte) (kind : FrameKind) :
    h2 = BitVec.ofNat 8 (payloadLength kind) ↔ h2.toNat = payloadLength kind := by
  have hk : (BitVec.ofNat 8 (payloadLength kind)).toNat = payloadLength kind := by cases kind <;> rfl
  rw [← BitVec.toNat_inj, hk]

/-- The key and header defects of R57. -/
theorem headerFits_eq_false_iff (r : RawFrame) :
    headerFits r = false ↔ r.key.extractLsb' 5 2 ≠ kindClass (kindOfH1 r.h1)
      ∨ r.h2.toNat ≠ payloadLength (kindOfH1 r.h1)
      ∨ (kindOfH1 r.h1 ≠ .upd
        ∧ (r.h1.getLsbD 4 = false ∨ r.h1.getLsbD 3 = true ∨ r.h1.extractLsb' 0 3 ≠ 0))
      ∨ (kindOfH1 r.h1 = .upd ∧ r.h1.extractLsb' 0 3 = 7 ∧ r.h1.getLsbD 4 = false)
      ∨ (kindOfH1 r.h1 = .fdat ∧ r.h1.getLsbD 5 = false) := by
  simp only [headerFits, keyClass, h1Last, h1Strict, h1Index, h1InStep, Bool.and_eq_false_iff,
    Bool.or_eq_false_iff, Bool.not_eq_false', Bool.and_eq_true, beq_eq_false_iff_ne, beq_iff_eq,
    Bool.not_eq_true', ne_eq, length_eq_iff, or_assoc, and_assoc]

/-- The defects of R58, against the open group. -/
theorem expectationMet_eq_false_iff (g : Option OpenGroup) (r : RawFrame) :
    expectationMet g r = false ↔ (g = none ∧ r.h1.extractLsb' 0 3 ≠ 0)
      ∨ ∃ o, g = some o ∧ (kindOfH1 r.h1 ≠ .upd ∨ (r.h1.extractLsb' 0 3).toNat ≠ o.entries.length
        ∨ r.key ≠ o.key ∨ r.h1.getLsbD 3 ≠ o.strict) := by
  cases g with
  | none => simp [expectationMet, h1Index]
  | some o =>
    simp only [expectationMet, h1Index, h1Strict, Bool.and_eq_false_iff, beq_eq_false_iff_ne,
      or_assoc, reduceCtorEq, false_and, false_or, Option.some.injEq, exists_eq_left']

/-- The check error of R59. -/
theorem checkMatches_eq_false_iff (r : RawFrame) : checkMatches r = false
    ↔ crc ((0#1 ++ r.key) :: r.h1 :: r.h2 :: r.payload) ≠ r.checkHigh ++ r.checkLow :=
  beq_eq_false_iff_ne

/-- The four kinds of defect are those that R57 to R59 list. -/
theorem judgeFrame_eq_faulty_iff_defective (g : Option OpenGroup) (r : RawFrame) :
    judgeFrame g r = .faulty ↔ Defective g r := by
  rw [judgeFrame_eq_faulty_iff, payloadBody_eq_none_iff, headerFits_eq_false_iff,
    expectationMet_eq_false_iff, checkMatches_eq_false_iff, Defective]
  refine iff_of_eq ?_
  unfold h1Index
  ac_rfl

/-- The records that a payload with fitting owner bytes spells, field by field (R49, Table 10-5). -/
theorem payloadData_record {payload : List Byte} (h : payloadOwnersFit payload = true) {k : Nat}
    (hk : k < 16) : ∃ x, (payloadData payload).records[k]? = some x
      ∧ x.value = joinBytes (payload.getD (4 * k + 1) 0) (payload.getD (4 * k + 2) 0)
      ∧ ownerByte x.owner = payload.getD (4 * k + 3) 0
      ∧ x.seq = payload.getD (4 * k + 4) 0 :=
  ⟨payloadRecord payload k, by simp [payloadData, hk], rfl,
    ownerByte_ownerOfByte (List.all_eq_true.1 h k (List.mem_range.2 hk)), rfl⟩

/-- The contents that a payload spells are those of its kind (R49). -/
theorem payloadBody_eq_some {kind : FrameKind} {index : BitVec 3} {payload : List Byte}
    {body : FrameBody} (h : payloadBody kind index payload = some body) :
    (kind = .seed → body = .seed)
      ∧ (kind = .freq → ∃ c : Chunk, c.val = (payload.getD 0 0).toNat ∧ body = .freq c)
      ∧ (kind = .upd → body = .upd (entryOfBytes payload))
      ∧ (kind = .fdat → payloadOwnersFit payload = true
        ∧ ∃ c : Chunk, c.val = (payload.getD 0 0).toNat ∧ body = .fdat c (payloadData payload)) := by
  cases kind with
  | seed => cases h; simp
  | freq =>
    obtain ⟨c, hc, rfl⟩ := Option.map_eq_some_iff.1 h
    exact ⟨nofun, fun _ => ⟨c, chunkOfByte_eq_some hc, rfl⟩, nofun, nofun⟩
  | fdat =>
    unfold payloadBody at h
    dsimp only at h
    split_ifs at h with ho
    obtain ⟨c, hc, rfl⟩ := Option.map_eq_some_iff.1 h
    exact ⟨nofun, nofun, nofun, fun _ => ⟨ho, c, chunkOfByte_eq_some hc, rfl⟩⟩
  | upd =>
    unfold payloadBody at h
    dsimp only at h
    split_ifs at h
    cases h; simp

/-- Settles O54: the verdict is FAULTY at a defect, and else carries what the payload spells. -/
theorem frameIsJudgedByItsDefects : Obligations.FrameIsJudgedByItsDefects := by
  refine ⟨by simp [crc, crcByte, crcBit], fun g r _ => ⟨judgeFrame_eq_faulty_iff_defective g r, fun hd => ?_⟩⟩
  have hsound : judgeFrame g r ≠ .faulty := fun h => hd ((judgeFrame_eq_faulty_iff_defective g r).1 h)
  obtain ⟨f, hf⟩ : ∃ f, judgeFrame g r = .sound f := by
    cases hv : judgeFrame g r with
    | sound f => exact ⟨f, rfl⟩
    | faulty => exact absurd hv hsound
  obtain ⟨body, hbody, _, _, _, rfl⟩ := (judgeFrame_eq_sound_iff g r f).1 hf
  obtain ⟨hseed, hfreq, hupd, hfdat⟩ := payloadBody_eq_some hbody
  refine ⟨_, hf, Nat.mod_eq_of_lt (BitVec.isLt _), rfl, rfl, rfl, rfl, hseed, hfreq, hupd, fun hk => ?_⟩
  obtain ⟨hfit, c, hc, hb⟩ := hfdat hk
  exact ⟨c, payloadData r.payload, hc, hb, fun k hk => payloadData_record hfit hk⟩

/-! ### A frame that may be sent (R46 to R50, R67) -/

theorem checkMatches_rawFrame (f : Frame) : checkMatches (rawFrame f) = true := by
  rw [checkMatches, rawFrame, joinBytes_highByte_lowByte]
  exact beq_self_eq_true _

/-- A payload that its sender may build spells the contents it was built from (R49, R57). -/
theorem payloadBody_bodyBytes {f : Frame} (h : Sendable f) :
    payloadBody (bodyKind f.body) f.index (bodyBytes f.body) = some f.body := by
  unfold Sendable at h
  cases hb : f.body with
  | seed => rfl
  | freq c => simp [bodyKind, payloadBody, bodyBytes, byteAt, chunkOfByte_ofNat]
  | fdat c d =>
    have hchunk : chunkOfByte (byteAt (bodyBytes (.fdat c d)) 0) = some c := chunkOfByte_ofNat c
    simp only [bodyKind, payloadBody, payloadOwnersFit_fdatBytes, if_true, hchunk, Option.map_some,
      payloadData_fdatBytes]
  | upd e =>
    rw [hb] at h
    simp only [bodyKind, payloadBody, bodyBytes, entryOfBytes_entryBytes, h.1, if_true]

/-- Its header has no defect of R57. -/
theorem headerFits_rawFrame {f : Frame} (h : Sendable f) : headerFits (rawFrame f) = true := by
  obtain ⟨hkind, hstep, hlast, hstrict, hindex, _, hclass⟩ := rawFrame_header f
  have hlength : (rawFrame f).h2 = BitVec.ofNat 8 (payloadLength (bodyKind f.body)) := rfl
  simp only [headerFits, hkind, hstep, hlast, hstrict, hindex, hclass, hlength, beq_self_eq_true]
  unfold Sendable at h
  cases hb : f.body with
  | seed => rw [hb] at h; simp [bodyKind, h]
  | freq c => rw [hb] at h; simp [bodyKind, h]
  | fdat c d => rw [hb] at h; simp [bodyKind, h]
  | upd e => rw [hb] at h; simpa [bodyKind, imp_iff_not_or] using h.2

/-- It meets the expectation of a receiver that holds the entries before it, or none (R58). -/
theorem expectationMet_rawFrame {g : Option OpenGroup} {f : Frame} (hnone : g = none → f.index = 0)
    (hopen : ∀ o, g = some o → (∃ e, f.body = .upd e) ∧ f.index.toNat = o.entries.length
      ∧ o.key = 1#2 ++ BitVec.ofNat 5 f.sender.val ∧ f.strict = o.strict) :
    expectationMet g (rawFrame f) = true := by
  obtain ⟨hkind, _, _, hstrict, hindex, _, _⟩ := rawFrame_header f
  cases g with
  | none => simpa [expectationMet, hindex] using hnone rfl
  | some o =>
    obtain ⟨⟨e, he⟩, hlen, hkey, hs⟩ := hopen o rfl
    have hk : (rawFrame f).key = o.key := by rw [hkey, rawFrame, he]; rfl
    simp [expectationMet, hkind, he, bodyKind, hindex, hlen, hk, hstrict, hs]

/-- A frame that may be sent is judged SOUND with its contents where it is expected (R54, R57 to R59). -/
theorem judgeFrame_rawFrame {g : Option OpenGroup} {f : Frame} (h : Sendable f)
    (hexp : expectationMet g (rawFrame f) = true) : judgeFrame g (rawFrame f) = .sound f := by
  obtain ⟨hkind, hstep, hlast, hstrict, hindex, hsender, _⟩ := rawFrame_header f
  refine (judgeFrame_eq_sound_iff _ _ _).2 ⟨f.body, ?_, headerFits_rawFrame h, hexp,
    checkMatches_rawFrame f, ?_⟩
  · rw [hkind, hindex]
    exact payloadBody_bodyBytes h
  · rw [hsender, hstep, hlast, hstrict, hindex]

/-- A frame's bytes lie where Tables 10-1 to 10-3 and 10-5 have them. -/
theorem rawFrame_layout (f : Frame) :
    (rawFrame f).key.extractLsb' 5 2 = kindClass (bodyKind f.body)
      ∧ ((rawFrame f).key.extractLsb' 0 5).toNat = f.sender.val
      ∧ (rawFrame f).h1.extractLsb' 6 2 = kindCode (bodyKind f.body)
      ∧ (rawFrame f).h1.getLsbD 5 = f.inStep ∧ (rawFrame f).h1.getLsbD 4 = f.last
      ∧ (rawFrame f).h1.getLsbD 3 = f.strict ∧ (rawFrame f).h1.extractLsb' 0 3 = f.index
      ∧ (rawFrame f).h2 = BitVec.ofNat 8 (payloadLength (bodyKind f.body))
      ∧ (rawFrame f).payload = bodyBytes f.body
      ∧ (rawFrame f).checkHigh ++ (rawFrame f).checkLow
        = crc ((0#1 ++ (rawFrame f).key) :: (rawFrame f).h1 :: (rawFrame f).h2 :: (rawFrame f).payload) := by
  obtain ⟨hclass, hstation⟩ := frameKey_fields (bodyKind f.body) f.sender
  obtain ⟨hkind, hstep, hlast, hstrict, hindex⟩ :=
    headerByte_fields (bodyKind f.body) f.inStep f.last f.strict f.index
  exact ⟨hclass, hstation, hkind, hstep, hlast, hstrict, hindex, rfl, rfl,
    joinBytes_highByte_lowByte _⟩

/-- An entry's fourteen bytes lie where Table 10-6 has them. -/
theorem entryBytes_eq (e : Entry) :
    entryBytes e = [e.cell, entryByte1 e, entryByte2 e, entryByte3 e, e.reference.extractLsb' 8 8,
        e.reference.extractLsb' 0 8, e.operand.extractLsb' 8 8, e.operand.extractLsb' 0 8]
      ++ [e.writeMask.extractLsb' 8 8, e.writeMask.extractLsb' 0 8, e.matchMask.extractLsb' 8 8,
        e.matchMask.extractLsb' 0 8, e.magnitudeMask.extractLsb' 8 8,
        e.magnitudeMask.extractLsb' 0 8] := rfl

/-- Settles O55: the layouts from the fields of each byte, and the round trips of entries and frames. -/
theorem entryAndFrameBytesRoundTrip : Obligations.EntryAndFrameBytesRoundTrip := by
  refine ⟨fun e => ⟨rfl, entryOfBytes_entryBytes e⟩, fun e => ?_, fun h => rfl, ⟨rfl, rfl, rfl, rfl⟩,
    ⟨rfl, rfl, rfl, rfl⟩, fun f class_ kind length h => ?_, ⟨rfl, fun n => rfl⟩,
    fun f copy c h => txKey_eq h, fun g f hs hnone hopen => ?_⟩
  · obtain ⟨hplain, hchain, hsource, htest, haction, hunused1⟩ := entryByte1_fields e
    obtain ⟨hmatch, hmagnitude, hunused2⟩ := entryByte2_fields e
    obtain ⟨hpass, hfail, hunused3⟩ := entryByte3_fields e
    refine ⟨_, _, _, entryBytes_eq e, hplain, hchain, hsource.trans ?_, htest.trans ?_,
      haction.trans ?_, hunused1, hmatch.trans ?_, hmagnitude.trans ?_, hunused2, actionCode, rfl, rfl,
      rfl, rfl, rfl, rfl, rfl, rfl, hpass, hfail, hunused3⟩
    all_goals rfl
  · obtain ⟨hclass, hstation, hkind, hstep, hlast, hstrict, hindex, hlength, hpayload, hcheck⟩ :=
      rawFrame_layout f
    obtain ⟨hc, hk, hl⟩ : class_ = kindClass (bodyKind f.body) ∧ kind = kindCode (bodyKind f.body)
        ∧ length = BitVec.ofNat 8 (payloadLength (bodyKind f.body)) := by
      cases hb : f.body <;> rw [hb] at h <;> cases h <;> exact ⟨rfl, rfl, rfl⟩
    subst hc hk hl
    refine ⟨hclass, hstation, hkind, hstep, hlast, hstrict, hindex, hlength, ?_, ?_, ?_, ?_, hcheck⟩
    · intro hb; rw [hpayload, hb]; rfl
    · intro c hb; rw [hpayload, hb]; rfl
    · intro e hb; rw [hpayload, hb]; rfl
    · intro c d hb
      rw [hpayload, hb]
      exact ⟨rfl, fun k x hx => fdatBytes_record hx c⟩
  · refine ⟨?_, judgeFrame_rawFrame hs (expectationMet_rawFrame hnone hopen)⟩
    rw [(rawFrame_header f).1]
    exact length_bodyBytes f.body

end Sys2Proof.Machine
end


section
/-!
PROOF. The request list of R102, operation by operation: what keeps a list of requests fit for its state, the
request slot's timer with an entry to wait for (R72), and the own FREQ on the line (R105).
-/
namespace Sys2Proof.Machine

/-! ### A list of requests (R102) -/

/-- A list that fits a state as its request list (R102), whether or not it is the one the state holds. -/
def FitsAsRequests (s : State) (l : List Request) : Prop :=
  RequestsOrdered l ∧ (∀ r ∈ l, RequestFits s r)
    ∧ (l ≠ [] → s.station = .catchingUp ∧ s.config.quiet = false)

theorem requestFits_iff (s : State) (r : Request) :
    RequestFits s r ↔ r.chunk ∈ unknownSummary s.table ∧ r.attempts ≤ s.config.retryLimit.val
      ∧ (r.state = .asked ↔ r.fillTimer.isSome = true) := by
  rw [mem_unknownSummary]
  exact Iff.rfl

theorem fitsAsRequests_nil (s : State) : FitsAsRequests s [] :=
  ⟨List.Pairwise.nil, by simp, fun h => absurd rfl h⟩

/-- A list fits another state with the same limit when its chunks lack a cell there and the station is the
same. -/
theorem FitsAsRequests.moved {s u : State} {l : List Request} (h : FitsAsRequests s l)
    (hk : ∀ r ∈ l, r.chunk ∈ unknownSummary u.table) (hc : u.config = s.config)
    (hst : l ≠ [] → u.station = s.station) : FitsAsRequests u l := by
  obtain ⟨hord, hfit, hs⟩ := h
  refine ⟨hord, fun r hr => ?_, fun hne => by rw [hst hne, hc]; exact hs hne⟩
  obtain ⟨_, hlimit, htimer⟩ := (requestFits_iff s r).1 (hfit r hr)
  exact (requestFits_iff u r).2 ⟨hk r hr, by rwa [hc], htimer⟩

theorem FitsAsRequests.unknown {s : State} {l : List Request} (h : FitsAsRequests s l) {r : Request}
    (hr : r ∈ l) : r.chunk ∈ unknownSummary s.table := by
  obtain ⟨_, hfit, _⟩ := h
  exact ((requestFits_iff s r).1 (hfit r hr)).1

theorem FitsAsRequests.filter {s : State} {l : List Request} (h : FitsAsRequests s l)
    (p : Request → Bool) : FitsAsRequests s (l.filter p) := by
  obtain ⟨hord, hfit, hs⟩ := h
  refine ⟨hord.filter p, fun r hr => hfit r (List.mem_of_mem_filter hr), fun hne => hs ?_⟩
  rintro rfl
  exact hne rfl

theorem FitsAsRequests.withoutChunk {s : State} {l : List Request} (h : FitsAsRequests s l)
    (c : Chunk) : FitsAsRequests s (withoutChunk l c) := h.filter _

theorem mem_of_mem_withoutChunk {l : List Request} {c : Chunk} {r : Request}
    (h : r ∈ withoutChunk l c) : r ∈ l := List.mem_of_mem_filter h

/-- Entries that are changed, each in its own place. -/
theorem FitsAsRequests.map {s : State} {l : List Request} (h : FitsAsRequests s l)
    {g : Request → Request} (hchunk : ∀ r, (g r).chunk = r.chunk)
    (hg : ∀ r ∈ l, (g r).attempts ≤ s.config.retryLimit.val
      ∧ ((g r).state = .asked ↔ (g r).fillTimer.isSome = true)) :
    FitsAsRequests s (l.map g) := by
  obtain ⟨hord, hfit, hs⟩ := id h
  refine ⟨List.pairwise_map.2 (by simpa only [RequestsOrdered, hchunk] using hord), fun q hq => ?_,
    fun hne => hs ?_⟩
  · obtain ⟨r, hr, rfl⟩ := List.mem_map.1 hq
    exact (requestFits_iff s _).2 ⟨by rw [hchunk]; exact h.unknown hr, hg r hr⟩
  · rintro rfl
    exact hne rfl

/-- The acceptance of a FREQ starts a fill timer with the entry that becomes ASKED (R105, R106). -/
theorem FitsAsRequests.askChunk {s : State} {l : List Request} (h : FitsAsRequests s l) (c : Chunk)
    (ms : Nat) : FitsAsRequests s (askChunk l c ms) := by
  obtain ⟨_, hfit, _⟩ := id h
  refine h.map (fun r => ?_) (fun r hr => ?_)
  · split <;> rfl
  · obtain ⟨_, hlimit, htimer⟩ := hfit r hr
    split
    · exact ⟨hlimit, by simp⟩
    · exact ⟨hlimit, htimer⟩

/-- One entry replaced, its count within the limit (R72, R107). -/
theorem FitsAsRequests.replaceRequest {s : State} {l : List Request} (h : FitsAsRequests s l)
    {q : Request} (ha : q.attempts ≤ s.config.retryLimit.val)
    (ht : q.state = .asked ↔ q.fillTimer.isSome = true) : FitsAsRequests s (replaceRequest l q) := by
  obtain ⟨_, hfit, _⟩ := id h
  refine h.map (fun r => ?_) (fun r hr => ?_)
  · split
    · next hc => exact hc.symm
    · rfl
  · split
    · exact ⟨ha, ht⟩
    · obtain ⟨_, hr⟩ := hfit r hr
      exact hr

/-- Chunks added as WANTED that lack a cell, at a station that may ask for them (R103). -/
theorem FitsAsRequests.added {s : State} {l l' : List Request} {chunks : List Chunk}
    (h : FitsAsRequests s l) (hadd : WantedAdded chunks l l')
    (hk : ∀ c ∈ chunks, c ∈ unknownSummary s.table)
    (hs : chunks ≠ [] → s.station = .catchingUp ∧ s.config.quiet = false) : FitsAsRequests s l' := by
  obtain ⟨_, hfit, hst⟩ := h
  obtain ⟨hord, hmem⟩ := hadd
  refine ⟨hord, fun r hr => ?_, fun hne => ?_⟩
  · rcases (hmem r).1 hr with hr | ⟨hnew, hc, _⟩
    · exact hfit r hr
    · rw [requestFits_iff]
      rw [hnew]
      exact ⟨hk _ hc, by simp, by simp⟩
  · obtain ⟨r, hr⟩ := List.exists_mem_of_ne_nil _ hne
    rcases (hmem r).1 hr with hr | ⟨_, hc, _⟩
    · exact hst (List.ne_nil_of_mem hr)
    · exact hs (List.ne_nil_of_mem hc)

/-! ### The list of a state and its slot's timer (R72) -/

/-- The request list and the request slot's timer, the own frame apart (R72, R102). -/
def RequestsFit (s : State) : Prop := FitsAsRequests s s.requests ∧ RequestTimerFits s

theorem RequestsFit.ordered {s : State} (h : RequestsFit s) : RequestsOrdered s.requests := by
  obtain ⟨⟨hord, _⟩, _⟩ := h
  exact hord

theorem requestListFits_iff (s : State) :
    RequestListFits s ↔ RequestsFit s ∧ RequestOnLineFits s := by
  unfold RequestListFits RequestsFit FitsAsRequests
  tauto

/-- The fields that the request list and its timer are judged by. -/
structure RequestView where
  table : Table
  config : ConfigRecord
  station : StationState
  requests : List Request
  requestTimer : Option RequestTimer

def requestView (s : State) : RequestView :=
  ⟨s.table, s.config, s.station, s.requests, s.requestTimer⟩

theorem RequestsFit.congr {s u : State} (h : RequestsFit s) (hv : requestView u = requestView s) :
    RequestsFit u := by
  simp only [requestView, RequestView.mk.injEq] at hv
  obtain ⟨htab, hconf, hst, hreq, htimer⟩ := hv
  simpa only [RequestsFit, FitsAsRequests, RequestFits, RequestTimerFits, htab, hconf, hst, hreq,
    htimer] using h

theorem requestTimerFits_of_filter {u : State} {x : Option RequestTimer}
    (h : u.requestTimer = x.filter fun t => isWanted u.requests t.chunk) : RequestTimerFits u := by
  intro t ht
  rw [h, Option.filter_eq_some_iff] at ht
  exact (isWanted_iff _ _).1 ht.2

theorem requestTimerFits_none {u : State} (h : u.requestTimer = none) : RequestTimerFits u := by
  intro t ht
  rw [h] at ht
  cases ht

theorem requestsFit_empty {u : State} (hr : u.requests = []) (ht : u.requestTimer = none) :
    RequestsFit u := ⟨by rw [hr]; exact fitsAsRequests_nil u, requestTimerFits_none ht⟩

/-- A list put in the place of the request list stops a timer that has no WANTED entry left (R72). -/
theorem requestsFit_setRequests {s : State} {l : List Request} (h : FitsAsRequests s l) :
    RequestsFit (setRequests l s) :=
  ⟨h, requestTimerFits_of_filter (x := s.requestTimer) rfl⟩

/-- Outside CATCHING-UP there are neither entries nor a timer of their slot. -/
theorem RequestsFit.empty {s : State} (h : RequestsFit s) (hs : s.station ≠ .catchingUp) :
    s.requests = [] ∧ s.requestTimer = none := by
  obtain ⟨⟨_, _, hst⟩, htimer⟩ := h
  have hnil : s.requests = [] := by
    by_contra hne
    exact hs (hst hne).1
  refine ⟨hnil, Option.eq_none_iff_forall_ne_some.2 fun t ht => ?_⟩
  obtain ⟨r, hr, _⟩ := htimer t ht
  rw [hnil] at hr
  cases hr

/-- Chunks that lack a cell, added at an attached station that is not quiet (R103, R104, R124). -/
theorem requestsFit_addWanted {s : State} (h : RequestsFit s) (hst : StationFollowsCells s)
    (ha : isAttached s.station = true) (hq : s.config.quiet = false) {chunks : List Chunk}
    (hk : ∀ c ∈ chunks, c ∈ unknownSummary s.table) : RequestsFit (addWanted chunks s) := by
  obtain ⟨hlist, _⟩ := h
  obtain ⟨hord, _⟩ := id hlist
  refine requestsFit_setRequests (hlist.added (withWanted_spec hord chunks) hk fun hne => ⟨?_, hq⟩)
  obtain ⟨c, hc⟩ := List.exists_mem_of_ne_nil _ hne
  obtain ⟨i, _, hi⟩ := (mem_unknownSummary s.table c).1 (hk c hc)
  obtain ⟨_, hin, _⟩ := hst
  cases hs : s.station with
  | catchingUp => rfl
  | inStep => rw [hin hs i] at hi; cases hi
  | offline => rw [hs] at ha; cases ha
  | faulted => rw [hs] at ha; cases ha

/-! ### The own FREQ on the line (R105) -/

theorem requestOnLineFits_none {u : State} (h : u.txFrame = none) : RequestOnLineFits u := by
  intro f c hf
  rw [h] at hf
  cases hf

/-- The frame on the line stays, and every entry was there before or is WANTED. -/
theorem RequestOnLineFits.kept {s u : State} (h : RequestOnLineFits s) (hx : u.txFrame = s.txFrame)
    (hr : ∀ r ∈ u.requests, r ∈ s.requests ∨ r.state = .wanted) : RequestOnLineFits u := by
  intro f c hf hb r hm hc
  rcases hr r hm with hm | hw
  · exact h f c (hx ▸ hf) hb r hm hc
  · exact hw

theorem RequestOnLineFits.added {s u : State} {chunks : List Chunk} (h : RequestOnLineFits s)
    (hx : u.txFrame = s.txFrame) (hadd : WantedAdded chunks s.requests u.requests) :
    RequestOnLineFits u := by
  refine h.kept hx fun r hr => ((hadd.2 r).1 hr).imp id fun hnew => ?_
  rw [hnew.1]

/-- States that agree on the list, what it is judged by, and the own frame. -/
theorem RequestListFits.congr {s u : State} (h : RequestListFits s)
    (hv : requestView u = requestView s) (hx : u.txFrame = s.txFrame) : RequestListFits u := by
  obtain ⟨hfit, hline⟩ := (requestListFits_iff s).1 h
  refine (requestListFits_iff u).2 ⟨hfit.congr hv, hline.kept hx fun r hr => Or.inl ?_⟩
  rwa [← show u.requests = s.requests from congrArg RequestView.requests hv]

/-- The own frame gone, the list may be any that fits. -/
theorem RequestsFit.offLine {u : State} (h : RequestsFit u) (hx : u.txFrame = none) :
    RequestListFits u := (requestListFits_iff u).2 ⟨h, requestOnLineFits_none hx⟩

/-- A FREQ that starts on the line is the one for a WANTED entry (R63, R105). -/
theorem requestOnLineFits_started {s u : State} {slot : CandidateSlot} {f : TxFrame}
    (hord : RequestsOrdered s.requests) (hs : slotFrame s slot = some f) (hx : u.txFrame = some f)
    (hr : u.requests = s.requests) : RequestOnLineFits u := by
  intro f' c hf hb r hm hc
  cases hx.symm.trans hf
  rw [hr] at hm
  cases slot with
  | seed => cases hs; cases hb
  | request =>
    obtain ⟨d, hd, rfl⟩ := Option.map_eq_some_iff.1 hs
    cases hb
    obtain ⟨q, hq, hqc, hw⟩ := (isWanted_iff _ _).1 (List.find?_some hd)
    have hqr := (findRequest_eq_some hord c q).2 ⟨hq, hqc⟩
    have hrr := (findRequest_eq_some hord c r).2 ⟨hm, hc⟩
    cases hqr.symm.trans hrr
    exact hw
  | group =>
    obtain ⟨g, _, hg⟩ := Option.bind_eq_some_iff.1 hs
    obtain ⟨e, he⟩ := groupFrame_upd hg
    rw [he] at hb
    cases hb
  | answer => obtain ⟨d, _, rfl⟩ := Option.map_eq_some_iff.1 hs; cases hb

end Sys2Proof.Machine
end


section
/-!
PROOF. What counted attempts, expiries, accepted frames and status reports keep of the request list
(R72, R91, R97, R102 to R108).
-/
namespace Sys2Proof.Machine

/-! ### Attempts, expiries and accepted frames -/

theorem requestsFit_failChunk {s : State} (h : RequestsFit s) (c : Chunk) :
    RequestsFit (failChunk c s) := by
  have hset := requestsFit_setRequests (h.1.withoutChunk c)
  rcases failChunk_cases c s with ⟨_, he⟩ | he <;> rw [he]
  all_goals exact hset.congr (by simp [requestView, fillFailed])

theorem findRequest_fits {s : State} {c : Chunk} {r : Request} (h : FitsAsRequests s s.requests)
    (hf : findRequest s.requests c = some r) :
    r ∈ s.requests ∧ r.chunk = c ∧ (r.state = .asked ↔ r.fillTimer.isSome = true) := by
  obtain ⟨hord, hfit, _⟩ := h
  obtain ⟨hr, hc⟩ := (findRequest_eq_some hord c r).1 hf
  obtain ⟨_, _, htimer⟩ := hfit r hr
  exact ⟨hr, hc, htimer⟩

/-- An attempt counted for a FREQ that was on the line: its entry is WANTED, so the slot's timer may run
for it (R72, R105). -/
theorem requestsFit_countRequest {s : State} (h : RequestsFit s) {c : Chunk}
    (hw : ∀ r ∈ s.requests, r.chunk = c → r.state = .wanted) : RequestsFit (countRequest c s) := by
  unfold countRequest
  split
  · exact h
  · next r hf =>
    obtain ⟨hr, hc, htimer⟩ := findRequest_fits h.1 hf
    dsimp only
    split_ifs with hx
    · exact requestsFit_failChunk h c
    · refine ⟨h.1.replaceRequest (by simpa [exhausts] using hx) htimer, fun t ht => ?_⟩
      cases ht
      refine ⟨{ r with attempts := r.attempts + 1 }, ?_, hc, hw r hr hc⟩
      exact List.mem_map.2 ⟨r, hr, if_pos rfl⟩

theorem requestsFit_countAttempt {s : State} (h : RequestsFit s) {body : TxBody}
    (hw : ∀ c, body = .freq c → ∀ r ∈ s.requests, r.chunk = c → r.state = .wanted) :
    RequestsFit (countAttempt body s) := by
  cases body with
  | seed => exact h.congr (by simp [requestView, countAttempt])
  | freq c => exact requestsFit_countRequest h (hw c rfl)
  | upd e => exact h.congr (by simp [requestView, countAttempt])
  | fdat c => exact h.congr (by simp [requestView, countAttempt])

/-- An expired fill timer leaves the entry WANTED, or takes it out of the list (R107). -/
theorem requestListFits_expireFill {s : State} (h : RequestListFits s) (r : Request) :
    RequestListFits (expireFill r s) := by
  obtain ⟨hfit, hline⟩ := (requestListFits_iff s).1 h
  refine (requestListFits_iff _).2 ⟨?_, ?_⟩ <;> unfold expireFill <;> dsimp only <;> split_ifs with hx
  · exact requestsFit_failChunk hfit _
  · exact requestsFit_setRequests
      (hfit.1.replaceRequest (by simpa [exhausts] using hx) (by simp))
  · exact hline.kept (by simp) fun q hq => Or.inl (mem_of_mem_withoutChunk (by simpa using hq))
  · refine hline.kept rfl fun q hq => ?_
    obtain ⟨x, hxm, rfl⟩ := List.mem_map.1 hq
    split
    · exact Or.inr rfl
    · exact Or.inl hxm

theorem requestsFit_acceptFreq {s : State} (h : RequestsFit s) (c : Chunk) :
    RequestsFit (acceptFreq c s) :=
  (requestsFit_setRequests (h.1.askChunk c s.config.fillTimeout.toNat)).congr
    (by simp [requestView, acceptFreq])

theorem requestsFit_acceptFdat {s : State} (h : RequestsFit s) (c : Chunk) :
    RequestsFit (acceptFdat c s) :=
  (requestsFit_setRequests (h.1.withoutChunk c)).congr (by simp [requestView, acceptFdat])

theorem requestsFit_acceptSeed (s : State) : RequestsFit (acceptSeed s) :=
  (requestsFit_setRequests (fitsAsRequests_nil s)).congr (by simp [requestView, acceptSeed])

theorem requestsFit_acceptFrame {s : State} (h : RequestsFit s) (f : Frame) :
    RequestsFit (acceptFrame f s) := by
  unfold acceptFrame
  cases f.body with
  | upd e => exact h.congr (by simp [requestView])
  | freq c => exact requestsFit_acceptFreq h c
  | fdat c d => exact requestsFit_acceptFdat (by exact h) c
  | seed => exact requestsFit_acceptSeed _

theorem requestsFit_receiveAccepted {s : State} (h : RequestsFit s) (v : Verdict) :
    RequestsFit (receiveAccepted v s) := by
  unfold receiveAccepted
  cases v with
  | faulty => exact h.congr (by simp [requestView])
  | sound f =>
    dsimp only
    split
    · exact h.congr (by simp [requestView])
    · exact requestsFit_acceptFrame h f

theorem requestsFit_receiveWindow {s : State} (h : RequestsFit s) (v : Verdict) (slot : SlotChoice)
    (o : WindowOutcome) : RequestsFit (receiveWindow v slot o s) := by
  unfold receiveWindow
  cases o with
  | rejected => exact h
  | accepted => exact requestsFit_receiveAccepted (by exact h) v
  | unheard => exact h.congr (by simp [requestView])

theorem requestsFit_ownAccepted {s : State} (h : RequestsFit s) (f : Frame) :
    RequestsFit (ownAccepted f s) := by
  unfold ownAccepted
  cases f.body with
  | upd e =>
    dsimp only
    split
    · exact h.congr (by simp [requestView])
    · exact h
  | freq c => exact requestsFit_acceptFreq (by exact h) c
  | fdat c d => exact requestsFit_acceptFdat (by exact h) c
  | seed => exact requestsFit_acceptSeed _

/-- The end of an own frame's window: no FREQ is on the line after it, and the entry of one that was not
accepted is WANTED still (R69, R105). -/
theorem requestListFits_senderWindow {s : State} (h : RequestListFits s) {tx : TxFrame} {f : Frame}
    (ht : s.txFrame = some tx) (hc : txContents tx s.fdatCopy = some f) (slot : SlotChoice)
    (o : WindowOutcome) : RequestListFits (senderWindow tx f slot o s) := by
  obtain ⟨hfit, hline⟩ := (requestListFits_iff s).1 h
  refine (requestListFits_iff _).2 ⟨?_, ?_⟩
  · unfold senderWindow
    dsimp only
    split
    · exact requestsFit_ownAccepted (hfit.congr (by simp [requestView])) f
    · exact requestsFit_countAttempt (hfit.congr (by simp [requestView])) fun c hb => hline tx c ht hb
  · rcases senderWindow_line (f := f) (slot := slot) (o := o) ht with ⟨_, hx⟩ | ⟨_, hx, _, _, e, he⟩
    · exact requestOnLineFits_none hx
    · intro f' c hf hb
      cases hx.symm.trans hf
      rw [(txContents_upd hc e).1 he] at hb
      cases hb

theorem requestListFits_stopFrame {s : State} (h : RequestListFits s) {f : TxFrame}
    (ht : s.txFrame = some f) (bit : MismatchBit) : RequestListFits (stopFrame bit f s) := by
  obtain ⟨hfit, hline⟩ := (requestListFits_iff s).1 h
  by_cases hn : 4 ≤ mismatchBefore bit s + 1
  · rw [stopFrame_faulted hn]
    exact (requestsFit_empty (by simp [enterFaulted]) (by simp [enterFaulted])).offLine (by simp)
  · rw [stopFrame_counted hn]
    refine RequestsFit.offLine ?_ (by simp)
    refine RequestsFit.congr (requestsFit_countAttempt (s := dropFdatRead
      (abandonFrame { s with mismatch := mismatchBefore bit s + 1 })) (body := f.body)
      (hfit.congr (by simp [requestView])) fun c hb => ?_) (by simp [requestView])
    simpa using hline f c ht hb

/-! ### The status report (R97, R125) -/

theorem unknownSummary_of_noGain {a b : Table} (h : NoGain a b) {c : Chunk}
    (hc : c ∈ unknownSummary a) : c ∈ unknownSummary b := by
  rw [mem_unknownSummary] at hc ⊢
  obtain ⟨i, hi, hk⟩ := hc
  refine ⟨i, hi, ?_⟩
  rw [← Bool.not_eq_true] at hk ⊢
  exact fun hb => hk (h i hb)

theorem unknown_of_lostChunks {a b : Table} {c : Chunk} (hc : c ∈ lostChunks a b) :
    c ∈ unknownSummary b := by
  obtain ⟨i, hi, _, hk⟩ := (mem_lostChunks a b c).1 hc
  exact (mem_unknownSummary b c).2 ⟨i, hi, hk⟩

theorem unknown_of_neededChunks {t : Table} {entries : List Entry} {c : Chunk}
    (hc : c ∈ neededChunks t entries) : c ∈ unknownSummary t := by
  obtain ⟨_, _, i, _, hi, hk⟩ := (mem_neededChunks t entries c).1 hc
  exact (mem_unknownSummary t c).2 ⟨i, hi, hk⟩

theorem requestTimerFits_reportStatus {before : Table} {s : State} (ht : RequestTimerFits s) :
    RequestTimerFits (reportStatus before s) := fun x hx =>
  (isWanted_iff _ _).1 ((report_requestTimer ht x).1 hx).2

/-- A report of a loss: the entries keep their UNKNOWN cells, and the chunks wanted have one (R97, R125). -/
theorem requestListFits_reportLost {before : Table} {s : State}
    (h : RequestListFits { s with table := before }) (hslots : SlotsNeedAttachment s)
    (hl : lostChunks before s.table ≠ []) (hgain : NoGain before s.table) :
    RequestListFits (reportStatus before s) := by
  obtain ⟨⟨hlist, htimer⟩, hline⟩ := (requestListFits_iff _).1 h
  obtain ⟨hord, _, hst⟩ := id hlist
  obtain ⟨chunks, hadd, hmem⟩ := report_added hl hord
  have hstation : isAttached s.station = true → (reportStatus before s).station = .catchingUp := by
    rw [reportStatus_station, reportedStation_lost hl]
    cases s.station <;> simp [isAttached]
  refine (requestListFits_iff _).2 ⟨⟨FitsAsRequests.added (l := s.requests) ?_ hadd ?_ ?_,
    requestTimerFits_reportStatus htimer⟩, hline.added (by simp) hadd⟩
  · refine hlist.moved (fun r hr => ?_) (by simp) fun hne => ?_
    · simpa using unknownSummary_of_noGain hgain (hlist.unknown hr)
    · have hs : s.station = .catchingUp := (hst hne).1
      rw [hstation (by rw [hs]; rfl)]
      exact hs.symm
  · intro c hc
    suffices c ∈ unknownSummary s.table by simpa using this
    rcases (hmem c).1 hc with ⟨_, hc⟩ | ⟨g, _, _, hc⟩
    · exact unknown_of_lostChunks hc
    · exact unknown_of_neededChunks hc
  · intro hne
    obtain ⟨c, hc⟩ := List.exists_mem_of_ne_nil _ hne
    have ha : isAttached s.station = true ∧ s.config.quiet = false := by
      rcases (hmem c).1 hc with ⟨hw, _⟩ | ⟨g, hg, _⟩
      · simp only [autoWants, Bool.and_eq_true, Bool.not_eq_true'] at hw
        exact ⟨hw.1.1, hw.2⟩
      · exact hslots (Or.inr (by rw [hg]; rfl))
    exact ⟨hstation ha.1, by simpa using ha.2⟩

/-- A report of no loss takes the entries of chunks that are KNOWN now out of the list (R97). -/
theorem reportKept_filtered {before : Table} {s : State}
    (h : FitsAsRequests { s with table := before } s.requests) (hl : lostChunks before s.table = []) :
    ∃ p, (reportStatus before s).requests = s.requests.filter p
      ∧ ∀ r ∈ s.requests.filter p, r.chunk ∈ unknownSummary s.table := by
  obtain ⟨hcatch, hother⟩ := reportKept_requests hl
  by_cases hg : anyGained before s.table = true ∧ s.station = .catchingUp
  · exact ⟨_, (hcatch hg.1 hg.2).1, fun r hr => by simpa using (List.mem_filter.1 hr).2⟩
  · refine ⟨fun _ => true, ?_, fun r hr => ?_⟩
    · rw [(hother (by rwa [not_and_or, Bool.not_eq_true] at hg)).1, List.filter_true]
    · rw [List.filter_true] at hr
      obtain ⟨_, _, hst⟩ := id h
      have hs : s.station = .catchingUp := (hst (List.ne_nil_of_mem hr)).1
      have hquiet : anyGained before s.table = false := by simpa [hs] using hg
      rw [← unknownSummary_congr (known_eq_of_quiet hl hquiet)]
      exact h.unknown hr

/-- A report of no loss leaves the entries of chunks that still lack a cell, and with the last cell none
(R97). -/
theorem requestListFits_reportKept {before : Table} {s : State}
    (h : RequestListFits { s with table := before }) (hl : lostChunks before s.table = []) :
    RequestListFits (reportStatus before s) := by
  obtain ⟨⟨hlist, htimer⟩, hline⟩ := (requestListFits_iff _).1 h
  obtain ⟨p, hp, hunknown⟩ := reportKept_filtered hlist hl
  have hlist' : FitsAsRequests (reportStatus before s) (s.requests.filter p) := by
    refine (hlist.filter p).moved (fun r hr => by simpa using hunknown r hr) (by simp) fun hne => ?_
    obtain ⟨r, hr⟩ := List.exists_mem_of_ne_nil _ hne
    rw [reportStatus_station, reportedStation_kept hl, if_neg]
    rintro ⟨_, _, hnil⟩
    have hk := hunknown r hr
    rw [hnil] at hk
    cases hk
  refine (requestListFits_iff _).2 ⟨⟨by rw [hp]; exact hlist', requestTimerFits_reportStatus htimer⟩,
    hline.kept (by simp) fun r hr => Or.inl ?_⟩
  rw [hp] at hr
  exact List.mem_of_mem_filter hr

theorem requestListFits_reportStatus {before : Table} {s : State}
    (h : RequestListFits { s with table := before }) (hslots : SlotsNeedAttachment s)
    (ht : NoGain before s.table ∨ NoLoss before s.table) : RequestListFits (reportStatus before s) := by
  by_cases hl : lostChunks before s.table = []
  · exact requestListFits_reportKept h hl
  · exact requestListFits_reportLost h hslots hl
      (ht.resolve_right fun hn => hl (lostChunks_of_noLoss hn))

end Sys2Proof.Machine
end


section
/-!
PROOF. The request list and the answer list, command by command and row by row, and with them every step
(R72, R102, R105, R109 to R112).
-/
namespace Sys2Proof.Machine

/-! ### The commands of the port -/

theorem command_slotsNeedAttachment {s x : State} (h : SlotsNeedAttachment s) (hx : Command s x) :
    SlotsNeedAttachment x := by
  have hempty : isAttached s.station = false → ∀ u : State, u.seedSlot = s.seedSlot →
      u.committed = s.committed → SlotsNeedAttachment u := fun ho u hs hg =>
    slotsNeedAttachment_empty (hs.trans (h.empty ho).1) (hg.trans (h.empty ho).2)
  cases hx with
  | configure p hs hp => exact hempty (by rw [hs]; rfl) _ rfl rfl
  | start hs ht => exact slotsNeedAttachment_empty (by simp) (by simpa using (h.empty hs).2)
  | leaveFaulted hs => exact hempty (by rw [hs]; rfl) _ rfl rfl
  | detach hs => exact slotsNeedAttachment_empty (by simp) (by simp)
  | reset => exact slotsNeedAttachment_empty rfl rfl
  | commit strict hr =>
    obtain ⟨ha, hq, _⟩ := commit_premises hr
    exact fun _ => by simpa using And.intro ha hq
  | withdraw g hg hs => exact slotsNeedAttachment_shrunk h rfl rfl id (by simp)
  | seed hs hq => exact fun _ => ⟨hs, hq⟩
  | _ => simpa [SlotsNeedAttachment] using h

/-- A COMMIT that waits for fill adds its needed chunks; any other leaves the list (R123, R124). -/
theorem acceptCommit_requests (strict : Byte) (s : State) :
    requestView (acceptCommit strict s) = requestView s
    ∨ requestView (acceptCommit strict s)
        = requestView (addWanted (neededChunks s.table s.staging) s) := by
  unfold acceptCommit
  dsimp only
  split
  · exact Or.inr (by simp [requestView])
  · exact Or.inl (by simp [requestView])

theorem attach_requests (s : State) : (attach s).requests = []
    ∨ ((attach s).requests = allChunks.map newRequest ∧ s.config.quiet = false) := by
  simp only [attach_fields]
  split
  · next hc =>
    simp only [Bool.and_eq_true, Bool.not_eq_true'] at hc
    exact Or.inr ⟨rfl, hc.2⟩
  · exact Or.inl rfl

/-- A station that attaches off the line asks for chunks all of whose cells are UNKNOWN (R98). -/
theorem requestsFit_attach {s : State} (hst : StationFollowsCells s)
    (ho : isAttached s.station = false) (ht : s.teardownPending = false) : RequestsFit (attach s) := by
  obtain ⟨_, _, _, _, hoff, _, _⟩ := hst
  refine ⟨?_, requestTimerFits_none (by simp)⟩
  rcases attach_requests s with hr | ⟨hr, hq⟩ <;> rw [hr]
  · exact fitsAsRequests_nil _
  · refine ⟨List.pairwise_map.2 allChunks_sorted, fun r hr => ?_, fun _ => by simp [hq]⟩
    obtain ⟨c, _, rfl⟩ := List.mem_map.1 hr
    refine (requestFits_iff _ _).2 ⟨(mem_unknownSummary _ _).2 ⟨_, chunkOfCell_ofNat c 0 (by decide), ?_⟩,
      by simp [newRequest], by simp [newRequest]⟩
    simpa using hoff ho ht _

theorem command_requestListFits {s x : State} (hst : StationFollowsCells s) (hlink : LinkCoherent s)
    (h : RequestListFits s) (hx : Command s x) : RequestListFits x := by
  obtain ⟨hfit, hline⟩ := (requestListFits_iff s).1 h
  obtain ⟨hoff, _⟩ := id hlink
  obtain ⟨hsummary, _⟩ := id hst
  have hidle : isAttached s.station = false → s.txFrame = none := fun ho =>
    hlink.txFrame_none (Or.inl (hoff.2 ho))
  have hempty : isAttached s.station = false → ∀ u : State, u.requests = s.requests →
      u.requestTimer = s.requestTimer → u.txFrame = s.txFrame → RequestListFits u :=
    fun ho u hr ht hx => by
      obtain ⟨hnil, htimer⟩ := hfit.empty fun hs => by rw [hs] at ho; cases ho
      exact (requestsFit_empty (hr.trans hnil) (ht.trans htimer)).offLine (hx.trans (hidle ho))
  have hwanted : ∀ {chunks : List Chunk}, isAttached s.station = true → s.config.quiet = false →
      (∀ c ∈ chunks, c ∈ unknownSummary s.table) → RequestListFits (addWanted chunks s) :=
    fun ha hq hk => (requestListFits_iff _).2 ⟨requestsFit_addWanted hfit hst ha hq hk,
      hline.added (by simp) (withWanted_spec hfit.ordered _)⟩
  cases hx with
  | configure p hs hp => exact hempty (by rw [hs]; rfl) _ rfl rfl rfl
  | start hs ht => exact (requestsFit_attach hst hs ht).offLine (by simpa using hidle hs)
  | leaveFaulted hs => exact hempty (by rw [hs]; rfl) _ rfl rfl rfl
  | detach hs => exact (requestsFit_empty (by simp) (by simp)).offLine (by simp)
  | reset => exact (requestsFit_empty rfl rfl).offLine rfl
  | commit strict hr =>
    obtain ⟨ha, hq, _⟩ := commit_premises hr
    rcases acceptCommit_requests strict s with hv | hv
    · exact h.congr hv (by simp)
    · exact (hwanted ha hq fun c => unknown_of_neededChunks).congr hv (by simp)
  | refill ha hq => exact hwanted ha hq fun c hc => by rwa [← hsummary]
  | _ => exact h.congr rfl rfl

/-! ### The grants that end with a status report (R10 to R12) -/

/-- A grant from s to u that ends with the report of a state v: v has the lists of s and has lost cells or
gained cells but not both, and u has the lists that the report gives. -/
structure Reported (s v u : State) : Prop where
  view : requestView v = { requestView s with table := v.table }
  answers : v.answers = s.answers
  frame : v.txFrame = s.txFrame
  group : v.committed = s.committed
  slot : v.seedSlot = s.seedSlot
  cells : NoGain s.table v.table ∨ NoLoss s.table v.table
  viewAfter : requestView u = requestView (reportStatus s.table v)
  answersAfter : u.answers = (reportStatus s.table v).answers
  frameAfter : u.txFrame = (reportStatus s.table v).txFrame

theorem reported_applyGroup (g : GroupItem) (s : State) : ∃ v, Reported s v (applyGroup g s) := by
  have ht := Or.inl (b := NoLoss s.table (evaluateGroup g s.table).table)
    (evaluateGroup_keeps g s.table).1
  cases ho : g.own with
  | true =>
    refine ⟨endGrant (removeHead (writeResults (evaluateGroup g s.table).status
      (evaluateGroup g s.table).records (latchHits (evaluateGroup g s.table).hits
        { s with table := (evaluateGroup g s.table).table }))), ?_⟩
    constructor <;> simp [requestView, applyGroup, ho, ht]
  | false =>
    refine ⟨endGrant (removeHead (latchHits (evaluateGroup g s.table).hits
      { s with table := (evaluateGroup g s.table).table })), ?_⟩
    constructor <;> simp [requestView, applyGroup, ho, ht]

theorem reported_applyFdat (c : Chunk) (d : ChunkData) (s : State) :
    ∃ v, Reported s v (applyFdat c d s) := by
  have ht := Or.inr (a := NoGain s.table (adoptChunk s.table c d)) (noLoss_adoptChunk s.table c d)
  unfold applyFdat
  dsimp only
  refine ⟨_, ?_, ?_, ?_, ?_, ?_, ?_, rfl, rfl, rfl⟩ <;> split <;> simp [requestView, ht]

theorem reported_applySeed (s : State) : ∃ v, Reported s v (applySeed s) := by
  have ht := Or.inr (a := NoGain s.table (seedAll s.table)) (noLoss_seedAll s.table)
  refine ⟨endGrant (removeHead { s with table := seedAll s.table }), ?_⟩
  constructor <;> simp [requestView, applySeed, ht]

theorem reported_runClear (s : State) : ∃ v, Reported s v (runClear s) := by
  have ht := Or.inl (b := NoLoss s.table (clearAll s.table)) (noGain_clearAll s.table)
  refine ⟨endGrant (clearDone { s with table := clearAll s.table }), ?_⟩
  constructor <;> simp [requestView, runClear, ht]

theorem reported_teardownEnded (s : State) : ∃ v, Reported s v (teardownEnded s) := by
  have ht := Or.inl (b := NoLoss s.table (clearAll s.table)) (noGain_clearAll s.table)
  refine ⟨endGrant { s with table := clearAll s.table, teardownPending := false }, ?_⟩
  constructor <;> simp [requestView, teardownEnded, ht]

theorem requestListFits_reported {s u : State} (h : RequestListFits s) (hslots : SlotsNeedAttachment s)
    (hr : ∃ v, Reported s v u) : RequestListFits u := by
  obtain ⟨v, hr⟩ := hr
  obtain ⟨hfit, hline⟩ := (requestListFits_iff s).1 h
  have hview := hr.view
  simp only [requestView, RequestView.mk.injEq, true_and] at hview
  obtain ⟨hc, hst, hreq, htimer⟩ := hview
  have hbefore : RequestListFits { v with table := s.table } :=
    h.congr (by simp [requestView, hc, hst, hreq, htimer]) hr.frame
  exact (requestListFits_reportStatus hbefore
    (by simpa [SlotsNeedAttachment, hr.group, hr.slot, hst, hc] using hslots) hr.cells).congr
    hr.viewAfter hr.frameAfter

/-! ### The rows -/

theorem row_requestListFits {s u : State} (hst : StationFollowsCells s) (hlink : LinkCoherent s)
    (hslots : SlotsNeedAttachment s) (h : RequestListFits s) (hu : Row s u) : RequestListFits u := by
  obtain ⟨hfit, hline⟩ := (requestListFits_iff s).1 h
  cases hu with
  | hardReset => exact (requestsFit_empty rfl rfl).offLine rfl
  | groupApply g rest hr hi => exact requestListFits_reported h hslots (reported_applyGroup g s)
  | fdatApply c d rest hr hi => exact requestListFits_reported h hslots (reported_applyFdat c d s)
  | seedApply rest hr hi => exact requestListFits_reported h hslots (reported_applySeed s)
  | stepLossClear hr => exact requestListFits_reported h hslots (reported_runClear s)
  | teardown hr =>
    have he := requestListFits_reported h hslots (reported_teardownEnded s)
    rcases runTeardown_cases s with hc | hc <;> rw [hc]
    · exact command_requestListFits (stationFollowsCells_teardownEnded hst hr)
        (linkCoherent_teardownEnded hlink) he
        (.start (by simpa using offLine_of_teardown hst hr) (by simp))
    · exact he
  | tableCommand op hr =>
    have hk : unknownSummary (runTableCommand op s).table = unknownSummary s.table :=
      unknownSummary_congr fun i => by simpa using (tableAfter_cell op s.table i).1
    obtain ⟨hlist, htimer⟩ := hfit
    refine (requestListFits_iff _).2 ⟨⟨?_, by simpa [RequestTimerFits] using htimer⟩,
      by simpa [RequestOnLineFits] using hline⟩
    simpa using hlist.moved (u := runTableCommand op s) (fun r hr => by rw [hk]; exact hlist.unknown hr)
      (by simp) (by simp)
  | contentionStart slot f hl hf he hs =>
    exact (requestListFits_iff _).2 ⟨hfit.congr (by simp [requestView]),
      requestOnLineFits_started hfit.ordered hs (by simp) (by simp)⟩
  | contentionLost k f hl ht => exact (hfit.congr (by simp [requestView])).offLine (by simp)
  | truncation hl hf => exact RequestsFit.offLine hfit rfl
  | mismatch bit f ht hm => exact requestListFits_stopFrame h ht bit
  | holdGap f hl hf hn =>
    obtain ⟨_, _, hn⟩ := Option.bind_eq_some_iff.1 hn
    obtain ⟨_, _, hn⟩ := Option.bind_eq_some_iff.1 hn
    obtain ⟨e, he⟩ := groupFrame_upd hn
    refine (requestListFits_iff _).2 ⟨hfit, fun f' c hf' hb => ?_⟩
    cases hf'
    rw [he] at hb
    cases hb
  | holdIntrusion hl hf => exact (hfit.congr (by simp [requestView])).offLine (by simp)
  | received frame slots n slot hf hl hd =>
    exact (requestsFit_receiveWindow hfit _ slot _).offLine
      (by simpa using hlink.txFrame_none (by simp [hl]))
  | sent tx f slots n slot hf hl ht hc hd => exact requestListFits_senderWindow h ht hc slot _
  | backoff slot hb =>
    cases slot with
    | request =>
      exact (requestListFits_iff _).2 ⟨⟨hfit.1, requestTimerFits_none rfl⟩, hline⟩
    | seed => exact h
    | group => exact h.congr (by simp [requestView, expireBackoff]) (by simp)
    | answer => exact h
  | fillTimer c r hr ha => exact requestListFits_expireFill h r
  | _ => exact h.congr (by simp [requestView]) (by simp)

/-! ### The answer list (R109 to R112) -/

theorem AnswerListFits.sublist {s u : State} (h : AnswerListFits s)
    (ha : u.answers.Sublist s.answers) (hst : u.station = s.station) (hc : u.config = s.config) :
    AnswerListFits u := by
  obtain ⟨hnodup, hs⟩ := h
  refine ⟨hnodup.sublist ha, fun hne => ?_⟩
  rw [hst, hc]
  refine hs fun hnil => hne ?_
  rw [hnil] at ha
  exact List.sublist_nil.1 ha

/-- A report of a loss empties the answers of an IN-STEP station, and no other report takes a station out
of IN-STEP (R97). -/
theorem answerListFits_reportStatus {s : State} (h : AnswerListFits s) (before : Table) :
    AnswerListFits (reportStatus before s) := by
  obtain ⟨hlost, hkept, _⟩ := report_answers before s
  by_cases hs : s.station = .inStep
  · by_cases hl : lostChunks before s.table = []
    · refine h.sublist (by rw [hkept (Or.inl hl)]) ?_ (by simp)
      rw [reportStatus_station, reportedStation_kept hl, if_neg (by simp [hs])]
    · exact answerListFits_empty (hlost hl hs)
  · exact answerListFits_empty ((hkept (Or.inr hs)).trans (h.empty_of_not_inStep hs))

theorem answerListFits_reported {s u : State} (h : AnswerListFits s) (hr : ∃ v, Reported s v u) :
    AnswerListFits u := by
  obtain ⟨v, hr⟩ := hr
  have hview := hr.view
  have hafter := hr.viewAfter
  simp only [requestView, RequestView.mk.injEq, true_and] at hview hafter
  obtain ⟨hc, hst, _⟩ := hview
  obtain ⟨_, huc, hus, _⟩ := hafter
  have hv : AnswerListFits v := h.sublist (by rw [hr.answers]) hst hc
  exact (answerListFits_reportStatus hv s.table).sublist (by rw [hr.answersAfter]) hus huc

theorem answerListFits_addAnswer {s : State} (h : AnswerListFits s) (c : Chunk) :
    AnswerListFits (addAnswer c s) := by
  unfold addAnswer
  split
  · next hc =>
    obtain ⟨hs, hq, hn⟩ := hc
    refine ⟨?_, fun _ => by simpa using And.intro hs hq⟩
    have hnot : c ∉ s.answers := by simpa using hn
    simpa [List.nodup_append] using And.intro h.1 fun a ha (hac : a = c) => hnot (hac ▸ ha)
  · exact h

theorem answerListFits_countAttempt {s : State} (h : AnswerListFits s) (body : TxBody) :
    AnswerListFits (countAttempt body s) := by
  refine h.sublist ?_ (by simp) (by simp)
  cases body with
  | seed => simp [countAttempt]
  | freq c => simp [countAttempt]
  | upd e => simp [countAttempt]
  | fdat c =>
    unfold countAttempt countAnswer
    dsimp only
    split
    · split
      · simpa using List.tail_sublist s.answers
      · exact List.Sublist.refl _
    · exact List.Sublist.refl _

theorem answerListFits_acceptFrame {s : State} (h : AnswerListFits s) (f : Frame) :
    AnswerListFits (acceptFrame f s) := by
  unfold acceptFrame
  cases f.body with
  | upd e => exact h.sublist (by simp) (by simp) (by simp)
  | freq c => exact answerListFits_addAnswer (s := setRequests _ s) h c
  | fdat c d => exact h.sublist (by simp) (by simp) (by simp)
  | seed => exact answerListFits_empty (by simp)

theorem answerListFits_ownAccepted {s : State} (h : AnswerListFits s) (f : Frame) :
    AnswerListFits (ownAccepted f s) := by
  unfold ownAccepted
  cases f.body with
  | upd e => dsimp only; split <;> exact h.sublist (by simp) (by simp) (by simp)
  | freq c => exact answerListFits_addAnswer (s := setRequests _ { s with txFrame := none }) h c
  | fdat c d => exact h.sublist (by simp) (by simp) (by simp)
  | seed => exact answerListFits_empty (by simp)

theorem answers_loseStep (s : State) : (loseStep s).answers.Sublist s.answers := by
  rw [loseStep_eq_stepLost]
  unfold stepLost
  dsimp only
  split <;> simp

theorem answerListFits_loseStep {s : State} (h : AnswerListFits s) : AnswerListFits (loseStep s) :=
  h.sublist (answers_loseStep s) (by simp) (by simp)

theorem answerListFits_receiveAccepted {s : State} (h : AnswerListFits s) (v : Verdict) :
    AnswerListFits (receiveAccepted v s) := by
  unfold receiveAccepted
  cases v with
  | faulty => exact answerListFits_loseStep h
  | sound f =>
    dsimp only
    split
    · exact answerListFits_loseStep h
    · exact answerListFits_acceptFrame h f

theorem answerListFits_receiveUnheard {s : State} (h : AnswerListFits s) (v : Verdict) :
    AnswerListFits (receiveUnheard v s) := by
  unfold receiveUnheard
  cases v with
  | faulty => exact answerListFits_loseStep h
  | sound f =>
    dsimp only
    split
    · exact answerListFits_loseStep h
    · cases f.body with
      | upd e => exact h.sublist (by simp) (by simp) (by simp)
      | freq c => exact h
      | fdat c d => exact h
      | seed => exact h

theorem answerListFits_receiveWindow {s : State} (h : AnswerListFits s) (v : Verdict)
    (slot : SlotChoice) (o : WindowOutcome) : AnswerListFits (receiveWindow v slot o s) := by
  unfold receiveWindow
  cases o with
  | rejected => exact h
  | accepted => exact answerListFits_receiveAccepted (by exact h) v
  | unheard => exact answerListFits_receiveUnheard (by exact h) v

theorem answerListFits_senderWindow {s : State} (h : AnswerListFits s) (tx : TxFrame) (f : Frame)
    (slot : SlotChoice) (o : WindowOutcome) : AnswerListFits (senderWindow tx f slot o s) := by
  unfold senderWindow
  dsimp only
  split
  · exact answerListFits_ownAccepted (by exact h) f
  · exact answerListFits_countAttempt (by exact h) _

theorem answerListFits_stopFrame {s : State} (h : AnswerListFits s) (bit : MismatchBit) (f : TxFrame) :
    AnswerListFits (stopFrame bit f s) := by
  by_cases hn : 4 ≤ mismatchBefore bit s + 1
  · rw [stopFrame_faulted hn]
    exact answerListFits_empty (by simp [enterFaulted])
  · rw [stopFrame_counted hn]
    exact answerListFits_countAttempt
      (s := dropFdatRead (abandonFrame { s with mismatch := mismatchBefore bit s + 1 })) h _

theorem row_answerListFits {s u : State} (h : AnswerListFits s) (hu : Row s u) : AnswerListFits u := by
  cases hu with
  | hardReset => exact answerListFits_empty rfl
  | groupApply g rest hr hi => exact answerListFits_reported h (reported_applyGroup g s)
  | fdatApply c d rest hr hi => exact answerListFits_reported h (reported_applyFdat c d s)
  | seedApply rest hr hi => exact answerListFits_reported h (reported_applySeed s)
  | stepLossClear hr => exact answerListFits_reported h (reported_runClear s)
  | teardown hr =>
    rcases runTeardown_cases s with hc | hc <;> rw [hc]
    · exact answerListFits_empty (by simp)
    · exact answerListFits_reported h (reported_teardownEnded s)
  | brokenTake n hf =>
    unfold breakTake
    split
    · exact answerListFits_loseStep (s := { s with takeAbandoned := false }) h
    · exact h
  | mismatch bit f ht hm => exact answerListFits_stopFrame h bit f
  | received frame slots n slot hf hl hd => exact answerListFits_receiveWindow h _ slot _
  | sent tx f slots n slot hf hl ht hc hd => exact answerListFits_senderWindow h tx f slot _
  | _ => simpa [AnswerListFits] using h

/-! ### Every step -/

/-- The request list and the answer list with the invariants that they lean on. -/
structure ListsCoherent (s : State) : Prop where
  station : StationFollowsCells s
  link : LinkCoherent s
  slots : SlotsNeedAttachment s
  requests : RequestListFits s
  answers : AnswerListFits s

theorem command_listsCoherent {s x : State} (h : ListsCoherent s) (hx : Command s x) :
    ListsCoherent x :=
  ⟨command_stationFollowsCells h.station hx, command_linkCoherent h.link hx,
    command_slotsNeedAttachment h.slots hx, command_requestListFits h.station h.link h.requests hx,
    command_answerListFits h.answers hx⟩

theorem settle_listsCoherent {s : State} (h : ListsCoherent s) : ListsCoherent (settle s) :=
  ⟨settle_stationFollowsCells h.station, settle_linkCoherent h.link,
    by simpa [SlotsNeedAttachment] using h.slots,
    h.requests.congr (by simp [requestView]) (by simp), by simpa [AnswerListFits] using h.answers⟩

theorem row_listsFit {s u : State} (h : ListsCoherent s) (hu : Row s u) :
    RequestListFits (settle u) ∧ AnswerListFits (settle u) :=
  ⟨(row_requestListFits h.station h.link h.slots h.requests hu).congr (by simp [requestView]) (by simp),
    by simpa [AnswerListFits] using row_answerListFits h.answers hu⟩

/-- Settles O59: both lists are kept by every command, by every row and by the arbiter. -/
theorem stepKeepsRequestAndAnswerLists : Obligations.StepKeepsRequestAndAnswerLists := by
  intro s t hstation hlink hslots hreq hans hstep
  exact step_keeps (P := ListsCoherent) (I := fun s => RequestListFits s ∧ AnswerListFits s)
    (fun _ h => ⟨h.requests, h.answers⟩) (fun _ _ h => ⟨h.1, h.2, h.3, h.4, h.5⟩)
    (fun b _ => writeData_keeps (fun _ _ h => ⟨h.1, h.2, h.3, h.4, h.5⟩)
      (fun _ _ => command_listsCoherent) b)
    (fun _ => settle_listsCoherent) (fun _ _ => row_listsFit)
    ⟨hstation, hlink, hslots, hreq, hans⟩ hstep

end Sys2Proof.Machine
end


section
/-!
PROOF. The start of contention and the hold of the line (R63 to R68, R70, R77).
-/
namespace Sys2Proof.Machine

/-! ### The key of an own frame (R65) -/

theorem toNat_frameKey (kind : FrameKind) (n : Station) :
    (frameKey kind n).toNat = 32 * (kindClass kind).toNat + n.val := by
  have hn := n.isLt
  rw [frameKey, BitVec.toNat_append, BitVec.toNat_ofNat, Nat.mod_eq_of_lt (by omega),
    Nat.shiftLeft_eq, Nat.mul_comm, ← Nat.two_pow_add_eq_or_of_lt (i := 5) (by omega)]

/-! ### The candidates at a start point (R63, R64) -/

theorem eligible_seed_iff (s : State) : eligible s .seed = true ↔
    s.config.quiet = false ∧ s.seedSlot = true ∧ s.seedTimer = none := by
  simp [eligible]

/-- The request candidate is the WANTED entry of the lowest chunk (R63, R102). -/
theorem wantedChunk_eq_some {l : List Request} {c : Chunk} (h : wantedChunk l = some c) :
    ∃ r ∈ l, r.chunk = c ∧ r.state = .wanted
      ∧ ∀ q ∈ l, q.state = .wanted → r.chunk ≤ q.chunk := by
  obtain ⟨hw, before, after, hall, hnot⟩ := List.find?_eq_some_iff_append.1 h
  obtain ⟨r, hr, rfl, hst⟩ := (isWanted_iff l c).1 hw
  refine ⟨r, hr, rfl, hst, fun q hq hqw => ?_⟩
  have hsorted := allChunks_sorted
  have hmem := mem_allChunks q.chunk
  rw [hall, List.pairwise_append, List.pairwise_cons] at hsorted
  obtain ⟨_, ⟨hafter, _⟩, _⟩ := hsorted
  rw [hall, List.mem_append, List.mem_cons] at hmem
  rcases hmem with hb | heq | ha
  · have hn := hnot _ hb
    rw [Bool.not_eq_true', ← Bool.not_eq_true] at hn
    exact absurd ((isWanted_iff l _).2 ⟨q, hq, rfl, hqw⟩) hn
  · exact le_of_eq heq.symm
  · exact le_of_lt (hafter _ ha)

theorem wantedChunk_isSome_iff (l : List Request) :
    (wantedChunk l).isSome = true ↔ ∃ r ∈ l, r.state = .wanted := by
  constructor
  · intro h
    obtain ⟨c, hc⟩ := Option.isSome_iff_exists.1 h
    obtain ⟨r, hr, _, hw, _⟩ := wantedChunk_eq_some hc
    exact ⟨r, hr, hw⟩
  · rintro ⟨r, hr, hw⟩
    exact List.find?_isSome.2 ⟨r.chunk, mem_allChunks _, (isWanted_iff _ _).2 ⟨r, hr, rfl, hw⟩⟩

theorem eligible_request_iff (s : State) : eligible s .request = true ↔
    s.config.quiet = false ∧ (∃ r ∈ s.requests, r.state = .wanted) ∧ s.requestTimer = none := by
  simp [eligible, wantedChunk_isSome_iff]

theorem eligible_group_iff (s : State) : eligible s .group = true ↔
    s.config.quiet = false ∧ (∃ g, s.committed = some g ∧ g.state = .queued) ∧ s.groupTimer = none
      ∧ s.yield = false := by
  simp [eligible, groupQueued, and_assoc]

theorem eligible_answer_iff (s : State) : eligible s .answer = true ↔
    s.config.quiet = false ∧ s.answers ≠ [] ∧ s.answerTimer = none ∧ s.yield = false ∧ s.items = []
      ∧ s.pendingClear = none := by
  simp [eligible, and_assoc]

theorem firstEligible_eq (s : State) : firstEligible s =
    if eligible s .seed = true then some .seed
    else if eligible s .request = true then some .request
    else if eligible s .group = true then some .group
    else if eligible s .answer = true then some .answer
    else none := by
  unfold firstEligible
  rw [List.find?_cons, List.find?_cons, List.find?_cons, List.find?_cons, List.find?_nil]
  grind

/-! ### The start of contention (R65, R77) -/

theorem exec_contentionStart_none {s : State} (hl : s.link = .listen) (hf : s.framing = .rest)
    (h : firstEligible s = none) :
    exec .contentionStart s = .next (settle { s with txd := [.recessive] }) := by
  simp [exec, execContentionStart, hl, hf, h, answer, undriven]

theorem exec_contentionStart_some {s : State} (hl : s.link = .listen) (hf : s.framing = .rest)
    {slot : CandidateSlot} {f : TxFrame} (h : firstEligible s = some slot)
    (hs : slotFrame s slot = some f) :
    exec .contentionStart s = .next (settle (beginContention f s)) := by
  simp [exec, execContentionStart, hl, hf, h, hs, answer]

/-- The start mark of a candidate that is not a group takes the line (R52, R65). -/
theorem beginContention_plain {f : TxFrame} (hb : f.body = .seed ∨ ∃ c, f.body = .freq c) (s : State) :
    beginContention f s = ownStartMark .contending f s := by
  unfold beginContention startSlot
  rcases hb with hb | ⟨c, hb⟩ <;> rw [hb] <;> rfl

/-- A group's first start mark puts it CONTENDING (R77). -/
theorem beginContention_group {f : TxFrame} {e : Entry} {g : CommittedGroup} {s : State}
    (hb : f.body = .upd e) (hg : s.committed = some g) :
    beginContention f s = ownStartMark .contending f
      { s with committed := some { g with state := .contending } } := by
  unfold beginContention
  rw [startSlot_upd hb]
  simp [setGroupState, driveStartMark, ownStartMark, hg]

/-- An FDAT's start mark claims its payload (R14, R68). -/
theorem beginContention_answer {f : TxFrame} {c : Chunk} (hb : f.body = .fdat c) (s : State) :
    beginContention f s = ownStartMark .contending f
      { s with fdatClaim := some c, fdatCopy := none } := by
  unfold beginContention startSlot
  rw [hb]
  rfl

/-- The first frame of a group: index 0, the flag of COMMIT, last when it has no other entry (R67). -/
theorem slotFrame_group {s : State} {g : CommittedGroup} {e : Entry} {rest : List Entry}
    (hg : s.committed = some g) (he : g.entries = e :: rest) :
    slotFrame s .group = some
      { station := s.config.station, inStep := decide (s.station = .inStep)
        last := decide (rest = []), strict := g.strict, index := 0, body := .upd e } := by
  have hlast : (0 + 1 == (e :: rest).length) = decide (rest = []) := by
    cases rest <;> simp
  simp only [slotFrame, hg, Option.bind_some, groupFrame, he, hlast]
  rfl

/-- Settles O44: the slots are tried in order, and the first one that is eligible starts its own frame. -/
theorem contentionStartTakesFirstEligible : Obligations.ContentionStartTakesFirstEligible := by
  refine ⟨fun f => ?_, fun s seed request group answer frame hl hf hseed hreq hgroup hans hframe => ?_⟩
  · rw [txKey, toNat_frameKey]
    cases f.body <;> rfl
  · subst hframe
    have hs := eligible_seed_iff s
    have hr := eligible_request_iff s
    have hg := eligible_group_iff s
    have ha := eligible_answer_iff s
    rw [← hseed] at hs
    rw [← hreq] at hr
    rw [← hgroup] at hg
    rw [← hans] at ha
    refine ⟨fun hnone => exec_contentionStart_none hl hf ?_, fun hq => ⟨fun h1 => ?_, fun h1 h2 => ?_,
      fun h1 h2 h3 g e rest hcom hent => ?_, fun h1 h2 h3 h4 c rest hlist => ?_⟩⟩
    · refine List.find?_eq_none.2 fun slot _ he => ?_
      obtain ⟨h1, h2, h3, h4⟩ := hnone.resolve_left (by simp [quiet_of_eligible he])
      cases slot with
      | seed => exact h1 (hs.1 he).2
      | request => exact h2 (hr.1 he).2
      | group => exact h3 (hg.1 he).2
      | answer => exact h4 (ha.1 he).2
    · have hfirst : firstEligible s = some .seed := by
        rw [firstEligible_eq, if_pos (hs.2 ⟨hq, h1⟩)]
      rw [exec_contentionStart_some hl hf hfirst rfl, beginContention_plain (Or.inl rfl)]
      rfl
    · have hfirst : firstEligible s = some .request := by
        rw [firstEligible_eq, if_neg (fun he => h1 (hs.1 he).2), if_pos (hr.2 ⟨hq, h2⟩)]
      obtain ⟨c, hc⟩ := Option.isSome_iff_exists.1 ((wantedChunk_isSome_iff _).2 (hreq.1 h2).1)
      obtain ⟨r, hm, rfl, hw, hleast⟩ := wantedChunk_eq_some hc
      refine ⟨r, hm, hw, hleast, ?_⟩
      rw [exec_contentionStart_some hl hf hfirst (congrArg (Option.map _) hc),
        beginContention_plain (Or.inr ⟨_, rfl⟩)]
      rfl
    · have hfirst : firstEligible s = some .group := by
        rw [firstEligible_eq, if_neg (fun he => h1 (hs.1 he).2), if_neg (fun he => h2 (hr.1 he).2),
          if_pos (hg.2 ⟨hq, h3⟩)]
      rw [exec_contentionStart_some hl hf hfirst (slotFrame_group hcom hent),
        beginContention_group rfl hcom]
    · have hfirst : firstEligible s = some .answer := by
        rw [firstEligible_eq, if_neg (fun he => h1 (hs.1 he).2), if_neg (fun he => h2 (hr.1 he).2),
          if_neg (fun he => h3 (hg.1 he).2), if_pos (ha.2 ⟨hq, h4⟩)]
      have hframe : slotFrame s .answer = some (singleFrame s (.fdat c)) := by
        simp [slotFrame, hlist]
      rw [exec_contentionStart_some hl hf hfirst hframe, beginContention_answer rfl]
      rfl

/-! ### The hold (R70) -/

/-- The holder's next frame: the entry after the accepted one, last on the final entry (R67, R70). -/
theorem nextGroupFrame_eq {s : State} {f : TxFrame} {g : CommittedGroup} {e : Entry}
    (hf : s.txFrame = some f) (hg : s.committed = some g)
    (he : g.entries[f.index.toNat + 1]? = some e) :
    nextGroupFrame s = some
      { station := s.config.station, inStep := decide (s.station = .inStep)
        last := decide (f.index.toNat + 1 + 1 = g.entries.length), strict := g.strict
        index := BitVec.ofNat 3 (f.index.toNat + 1), body := .upd e } := by
  simp only [nextGroupFrame, hf, hg, Option.bind_some, groupFrame, he]
  rfl

/-- Settles O48: the gap over, the next entry goes out; a dominant bit before it is a frame of another
station. -/
theorem holdSendsNextFrameOrIsBroken : Obligations.HoldSendsNextFrameOrIsBroken := by
  rintro s f g e k hl hgap hf hg rfl
  refine ⟨fun he => ?_, ?_⟩
  · simp only [exec, execHoldGap, hl, hgap, nextGroupFrame_eq hf hg he]
    rfl
  · have he : exec .holdIntrusion s = answer (countGroup (takeFrame { s with txFrame := none })) := by
      simp [exec, execHoldIntrusion, hl, hgap]
    rw [he, takeFrame_eq (s := { s with txFrame := none }) (Or.inr hgap)]
    rfl

end Sys2Proof.Machine
end


section
/-!
PROOF. A counted attempt starts the backoff of its slot or exhausts its candidate, slot by slot (R63, R72, R91,
R105, R111, R115, R125, R126, R129).
-/
namespace Sys2Proof.Machine

theorem exhausts_iff (config : ConfigRecord) (n : Nat) :
    exhausts config n = true ↔ config.retryLimit.val < n := by simp [exhausts]

theorem exhausts_eq_false {config : ConfigRecord} {n : Nat} (h : n ≤ config.retryLimit.val) :
    exhausts config n = false := by simp [exhausts, h]

theorem withCause_eq_latchCause (c : Cause) (detail : Byte) (s : State) :
    withCause c detail s = latchCause c detail s := rfl

/-! ### The seed slot (R91, R115) -/

theorem countSeed_backoff {s : State} (h : s.seedAttempts + 1 ≤ s.config.retryLimit.val) :
    countSeed s = { s with
      seedAttempts := s.seedAttempts + 1
      seedTimer := some (backoffTb s.config (s.seedAttempts + 1)) } := by
  simp [countSeed, exhausts_eq_false h]

theorem countSeed_exhausted {s : State} (h : s.config.retryLimit.val < s.seedAttempts + 1) :
    countSeed s = emptySeedSlot .dropped { s with seedAttempts := s.seedAttempts + 1 } := by
  simp [countSeed, (exhausts_iff _ _).2 h]

/-- A SEED that waits for its slot completes when the slot empties (R115). -/
theorem emptySeedSlot_waiting {s : State} (h : s.port = waitingPort .seed .seedSlot) (c : Code) :
    emptySeedSlot c s = { s with seedSlot := false, seedTimer := none, port := codePort .seed c } := by
  have hw : portWaits .seedSlot { s with seedSlot := false, seedTimer := none } = true := by
    simp [portWaits, h, waitingPort]
  rw [emptySeedSlot, completeWait, if_pos hw, giveCode, giveResult]
  simp only [h]
  rw [portWithResult_waiting _ _ _ (by simp)]
  rfl

theorem emptySeedSlot_not_waiting {s : State} (h : portWaits .seedSlot s = false) (c : Code) :
    emptySeedSlot c s = { s with seedSlot := false, seedTimer := none } := by
  have hw : portWaits .seedSlot { s with seedSlot := false, seedTimer := none } = false := h
  simp [emptySeedSlot, completeWait, hw]

/-! ### A request (R72, R105, R125) -/

theorem countRequest_backoff {s : State} {r : Request} (hf : findRequest s.requests r.chunk = some r)
    (h : r.attempts + 1 ≤ s.config.retryLimit.val) :
    countRequest r.chunk s = { s with
      requests := replaceRequest s.requests { r with attempts := r.attempts + 1 }
      requestTimer := some { chunk := r.chunk, tb := backoffTb s.config (r.attempts + 1) } } := by
  simp [countRequest, hf, exhausts_eq_false h]

theorem countRequest_exhausted {s : State} {r : Request}
    (hf : findRequest s.requests r.chunk = some r) (h : s.config.retryLimit.val < r.attempts + 1) :
    countRequest r.chunk s = failChunk r.chunk s := by
  simp [countRequest, hf, (exhausts_iff _ _).2 h]

/-- The slot's timer stays when another chunk's entry leaves the list (R72). -/
theorem isWanted_withoutChunk {l : List Request} {c d : Chunk} (hw : isWanted l d = true) :
    isWanted (withoutChunk l c) d = (d != c) := by
  obtain ⟨r, hr, rfl, hst⟩ := (isWanted_iff l d).1 hw
  rw [Bool.eq_iff_iff, isWanted_iff]
  simp only [withoutChunk, List.mem_filter, bne_iff_ne]
  exact ⟨fun ⟨q, hq, hqc, _⟩ => hqc ▸ hq.2, fun hne => ⟨r, ⟨hr, hne⟩, rfl, hst⟩⟩

theorem fillFailed_eq {s : State} (ht : RequestTimerFits s) (c : Chunk) :
    fillFailed c s = withCause .fillFail (BitVec.ofNat 8 c.val) { s with
      requests := s.requests.filter fun x => x.chunk != c
      requestTimer := s.requestTimer.filter fun t => t.chunk != c } := by
  have htimer : (s.requestTimer.filter fun t => isWanted (withoutChunk s.requests c) t.chunk)
      = s.requestTimer.filter fun t => t.chunk != c := by
    cases hx : s.requestTimer with
    | none => rfl
    | some t =>
      rw [Option.filter_some, Option.filter_some, isWanted_withoutChunk ((isWanted_iff _ _).2 (ht t hx))]
  rw [withCause_eq_latchCause, fillFailed, setRequests, htimer]
  rfl

theorem failChunk_needed {s : State} {c : Chunk} (hw : Waits s) (hn : c ∈ s.needed) :
    failChunk c s = endCommitted .fillFailed (fillFailed c s) := by
  obtain ⟨g, hg, hst⟩ := hw
  unfold failChunk
  dsimp only
  rw [show (latchCause .fillFail (BitVec.ofNat 8 c.val)
    (setRequests (withoutChunk s.requests c) s)).committed = some g by simpa using hg]
  dsimp only
  rw [if_pos ⟨hst, by simpa using hn⟩]
  rfl

theorem failChunk_not_needed {s : State} {c : Chunk} (h : ¬ (Waits s ∧ c ∈ s.needed)) :
    failChunk c s = fillFailed c s := by
  unfold failChunk
  dsimp only
  split
  · next g hg =>
    rw [if_neg]
    · rfl
    · exact fun ⟨hst, hn⟩ => h ⟨⟨g, by simpa using hg, hst⟩, by simpa using hn⟩
  · rfl

/-! ### The head of the answer list (R111) -/

theorem countAnswer_backoff {s : State} {c : Chunk} (hc : s.answers.head? = some c)
    (h : s.answerAttempts + 1 ≤ s.config.retryLimit.val) :
    countAnswer c s = { s with
      answerAttempts := s.answerAttempts + 1
      answerTimer := some (backoffTb s.config (s.answerAttempts + 1)) } := by
  simp [countAnswer, hc, exhausts_eq_false h]

/-- The answer whose attempts are exhausted goes, and another chunk is the head (R111). -/
theorem countAnswer_exhausted {s : State} {c : Chunk} {rest : List Chunk} (ha : s.answers = c :: rest)
    (hc : c ∉ rest) (h : s.config.retryLimit.val < s.answerAttempts + 1) :
    countAnswer c s = { s with answers := rest, answerAttempts := 0, answerTimer := none } := by
  have hhead : rest.head? ≠ some c := fun he => hc (List.mem_of_head? he)
  simp [countAnswer, ha, (exhausts_iff _ _).2 h, setAnswers, hhead]

/-! ### Any candidate -/

/-- Settles O46: slot by slot, within the retry limit and above it. -/
theorem attemptIsCountedOrExhausts : Obligations.AttemptIsCountedOrExhausts := by
  rintro s limit backoff rfl rfl
  refine ⟨?_, fun c hc => ?_, fun r n hord ht hr hn => ?_, fun e g n hg hn => ?_,
    fun c rest n ha hc hn => ?_⟩
  · rintro n rfl
    refine ⟨fun h => countSeed_backoff h, fun h => ⟨fun hp => ?_, fun hp => ?_⟩⟩
    · exact (countSeed_exhausted h).trans
        (emptySeedSlot_waiting (s := { s with seedAttempts := s.seedAttempts + 1 }) hp _)
    · exact (countSeed_exhausted h).trans
        (emptySeedSlot_not_waiting (s := { s with seedAttempts := s.seedAttempts + 1 }) hp _)
  · have hf := (findRequest_eq_none s.requests c).2 hc
    simp [countAttempt, countRequest, hf]
  · subst hn
    have hf := (findRequest_eq_some hord r.chunk r).2 ⟨hr, rfl⟩
    refine ⟨fun h => countRequest_backoff hf h, fun h u hu => ?_⟩
    rw [← fillFailed_eq ht] at hu
    subst hu
    refine ⟨fun ⟨hw, hm⟩ => ?_, fun hw => ?_⟩
    · exact (countRequest_exhausted hf h).trans (failChunk_needed hw hm)
    · exact (countRequest_exhausted hf h).trans (failChunk_not_needed hw)
  · subst hn
    rcases countGroup_cases (s := s) (by rw [hg]; rfl) with ⟨hlt, he⟩ | ⟨hle, he⟩
    · exact ⟨fun h => absurd h (Nat.not_le.2 hlt), fun _ => he⟩
    · refine ⟨fun _ => he.trans ?_, fun h => absurd hle (Nat.not_le.2 h)⟩
      simp [setGroupState, attemptCounted, hg, backoffTb]
  · subst hn
    refine ⟨fun h => countAnswer_backoff (by rw [ha]; rfl) h,
      fun h => ⟨0, countAnswer_exhausted ha hc h, fun _ => rfl⟩⟩

end Sys2Proof.Machine
end

section
/-!
PROOF. The acknowledge window at a receiver, quiet or not (sections 5.1 to 5.3; R78 to R86, R92).
-/
namespace Sys2Proof.Machine

/-! ### The slot decided (R78, R79) -/

/-- A FAULTY frame is vetoed (R79). -/
theorem receiverSlot_faulty {s : State} (hq : s.config.quiet = false) (ended : Nat) :
    receiverSlot ended s .faulty = .veto := by
  simp [receiverSlot, hq]

/-- A SOUND frame is vetoed when it completes an item and the list was full in the turnaround (R79). -/
theorem receiverSlot_sound {s : State} (hq : s.config.quiet = false) (ended : Nat) (f : Frame) :
    receiverSlot ended s (.sound f)
      = if 2 ≤ turnaroundItems ended s ∧ completesItem f = true then .veto else .accept := by
  have hbusy : busyTurnaround ended s = decide (2 ≤ turnaroundItems ended s) := rfl
  simp [receiverSlot, hq, hbusy, and_comm]

/-- A quiet station drives neither slot (R78). -/
theorem receiverSlot_quiet {s : State} (hq : s.config.quiet = true) (ended : Nat) (v : Verdict) :
    receiverSlot ended s v = .neither := by
  simp [receiverSlot, hq]

/-! ### The outcome acted on (R80 to R86, R92) -/

/-- A receiver's window: the VETO slot is read before the ACCEPT slot (R80, R83). -/
theorem receiveWindow_eq (v : Verdict) (slot : SlotChoice) (slots : SlotsRead) (s : State) :
    receiveWindow v slot (windowReads slots) s
      = if slots.veto then { windowEnded false v slot s with groupBuffer := none }
        else if slots.accept then receiveAccepted v (windowEnded false v slot s)
        else receiveUnheard v (windowEnded false v slot s) := by
  unfold receiveWindow windowReads
  rw [windowLevels_eq_lineWindow]
  cases slots.veto <;> cases slots.accept <;> rfl

/-- An accepted frame is acted on when it completes no item or the list has room (R84, R92). -/
theorem receiveAccepted_room {s : State} {f : Frame}
    (hroom : completesItem f = true → s.items.length < 2) :
    receiveAccepted (.sound f) s = acceptFrame f s := by
  refine if_neg fun h => ?_
  obtain ⟨hc, hfull⟩ := Bool.and_eq_true_iff.1 h
  exact Nat.not_le.2 (hroom hc) (of_decide_eq_true hfull)

/-- An accepted frame whose item finds no room is a step loss (R92). -/
theorem receiveAccepted_full {s : State} {f : Frame} (hc : completesItem f = true)
    (hfull : 2 ≤ s.items.length) : receiveAccepted (.sound f) s = stepLost s := by
  have h : listFull s = true := decide_eq_true hfull
  simp [receiveAccepted, hc, h, loseStep_eq_stepLost]

/-- A completing frame that no station answers is a step loss (R86). -/
theorem receiveUnheard_completing {s : State} {f : Frame} (hc : completesItem f = true) :
    receiveUnheard (.sound f) s = stepLost s := by
  simp [receiveUnheard, hc, loseStep_eq_stepLost]

/-- The entry of an unheard UPD with last flag 0 is held as that of an accepted one (R86). -/
theorem receiveUnheard_held {f : Frame} {e : Entry} (hb : f.body = .upd e) (hlast : f.last = false)
    (s : State) : receiveUnheard (.sound f) s = acceptUpd f e s := by
  simp [receiveUnheard, completesItem, hb, hlast]

/-- An unheard FREQ is nothing (R86). -/
theorem receiveUnheard_freq {f : Frame} {c : Chunk} (hb : f.body = .freq c) (s : State) :
    receiveUnheard (.sound f) s = s := by
  simp [receiveUnheard, completesItem, hb]

/-! ### What acceptance does, kind by kind (R82, R84, R85) -/

theorem acceptFrame_freq {f : Frame} {c : Chunk} (hb : f.body = .freq c) (s : State) :
    acceptFrame f s = acceptFreq c s := by
  simp only [acceptFrame, hb]

theorem acceptFrame_fdat {f : Frame} {c : Chunk} {d : ChunkData} (hb : f.body = .fdat c d)
    (s : State) : acceptFrame f s = acceptFdat c { s with items := s.items ++ [.fdat c d] } := by
  simp only [acceptFrame, hb, appendItem]

theorem acceptFrame_seed {f : Frame} (hb : f.body = .seed) (s : State) :
    acceptFrame f s = acceptSeed { s with items := s.items ++ [.seed] } := by
  simp only [acceptFrame, hb, appendItem]

theorem acceptFrame_upd {f : Frame} {e : Entry} (hb : f.body = .upd e) (s : State) :
    acceptFrame f s = acceptUpd f e s := by
  simp only [acceptFrame, hb]

/-! ### WINDOW_OUTCOME at a receiver -/

/-- WINDOW_OUTCOME of another's frame: no window when RXD does not show the slot this station drove (R80). -/
theorem exec_windowOutcome_receiving {s : State} {r : RawFrame} {v : Verdict} {slot : SlotChoice}
    {ended : Nat} (hf : s.framing = .taking) (hl : s.link = .receiving)
    (hp : r.payload.length = payloadLength (kindOfH1 r.h1)) (hv : judgeFrame s.groupBuffer r = v)
    (hslot : receiverSlot ended s v = slot) (slots : SlotsRead) :
    exec (.windowOutcome r slots ended) s
      = if slotReadBack slots slot then
          .next (settle (receiveWindow v slot (windowReads slots) s))
        else .fault .slotNotRead := by
  simp [exec, execWindowOutcome, hf, hl, hp, hv, hslot, answer]

/-- A station that drove VETO reads rejected, or there is no window (R80, R83). -/
theorem exec_windowOutcome_vetoed {s : State} {r : RawFrame} {v : Verdict} {ended : Nat}
    (hf : s.framing = .taking) (hl : s.link = .receiving)
    (hp : r.payload.length = payloadLength (kindOfH1 r.h1)) (hv : judgeFrame s.groupBuffer r = v)
    (hslot : receiverSlot ended s v = .veto) (slots : SlotsRead) :
    (slots.veto = true → exec (.windowOutcome r slots ended) s
      = .next (settle { windowEnded false v .veto s with groupBuffer := none }))
    ∧ (slots.veto = false → exec (.windowOutcome r slots ended) s = .fault .slotNotRead) := by
  have hexec := exec_windowOutcome_receiving hf hl hp hv hslot slots
  rw [receiveWindow_eq] at hexec
  exact ⟨fun hveto => by simpa [slotReadBack, hveto] using hexec,
    fun hveto => by simpa [slotReadBack, hveto] using hexec⟩

/-- Settles O50: the slot from the verdict and the turnaround, the guard from the slot, and the outcome
frame kind by frame kind. -/
theorem receiverAnswersAndActs : Obligations.ReceiverAnswersAndActs := by
  intro s r slots ended hf hl hp hq
  refine ⟨fun hv => ?_, fun f hv => ⟨fun hbusy => ?_, fun hbusy u hu => ?_⟩⟩
  · exact exec_windowOutcome_vetoed hf hl hp hv (receiverSlot_faulty hq ended) slots
  · have hslot := (receiverSlot_sound hq ended f).trans (if_pos hbusy)
    exact exec_windowOutcome_vetoed hf hl hp hv hslot slots
  · have hslot := (receiverSlot_sound hq ended f).trans (if_neg hbusy)
    have hexec := exec_windowOutcome_receiving hf hl hp hv hslot slots
    rw [receiveWindow_eq, ← hu] at hexec
    refine ⟨fun hveto => ?_, fun hveto haccept => ?_, fun hveto haccept => ?_⟩
    · simpa [slotReadBack, hveto] using hexec
    · simpa [slotReadBack, hveto, haccept] using hexec
    · have hroom : completesItem f = true → u.items.length < 2 := fun hc =>
        hu ▸ Nat.not_le.1 fun hfull => hbusy ⟨Nat.le_add_right_of_le hfull, hc⟩
      have haccepted : exec (.windowOutcome r slots ended) s = .next (settle (acceptFrame f u)) := by
        simpa [slotReadBack, hveto, haccept, receiveAccepted_room hroom] using hexec
      rw [haccepted]
      subst hu
      refine ⟨fun c hb => ?_, fun c d hb => ?_, fun hb => ?_, fun e hb hlast => ?_, fun e hb hlast => ?_⟩
      · rw [acceptFrame_freq hb]
      · rw [acceptFrame_fdat hb]; rfl
      · rw [acceptFrame_seed hb]; rfl
      · rw [acceptFrame_upd hb, acceptUpd_held hlast]; rfl
      · rw [acceptFrame_upd hb, acceptUpd_last hlast]; rfl

/-- Settles O51: a quiet station reads every window, so the outcome alone decides, and the room test
parts an accepted frame from a step loss. -/
theorem quietReceiverReadsWindow : Obligations.QuietReceiverReadsWindow := by
  intro s r slots ended u v hf hl hp hq hv hu
  have hexec : exec (.windowOutcome r slots ended) s
      = .next (settle (receiveWindow v .neither (windowReads slots) s)) :=
    exec_windowOutcome_receiving hf hl hp hv.symm (receiverSlot_quiet hq ended v) slots
  rw [receiveWindow_eq, ← hu] at hexec
  refine ⟨fun hveto => by simpa [hveto] using hexec, fun hveto => ?_⟩
  replace hexec : exec (.windowOutcome r slots ended) s
      = .next (settle (if slots.accept then receiveAccepted v u else receiveUnheard v u)) := by
    simpa [hveto] using hexec
  have hitems : u.items = s.items := hu ▸ rfl
  have hbuffer : u.groupBuffer = s.groupBuffer := hu ▸ rfl
  rw [hexec]
  refine ⟨fun h => ?_, fun f h => ?_⟩
  · rw [h]
    simp [receiveAccepted, receiveUnheard, loseStep_eq_stepLost]
  subst h
  refine ⟨fun hc hlost => ?_, fun e hb hlast => ?_, fun c hb => ?_, fun haccept hlen => ?_⟩
  · rw [receiveUnheard_completing hc]
    split
    · next haccept =>
      have hfull : 2 ≤ u.items.length := hitems ▸ hlost.resolve_left (by simp [haccept])
      rw [receiveAccepted_full hc hfull]
    · rfl
  · have hroom : completesItem f = true → u.items.length < 2 := by simp [completesItem, hb, hlast]
    rw [receiveAccepted_room hroom, acceptFrame_upd hb, receiveUnheard_held hb hlast, ite_self,
      acceptUpd_held hlast, hbuffer]
    rfl
  · have hroom : completesItem f = true → u.items.length < 2 := by simp [completesItem, hb]
    rw [receiveAccepted_room hroom, acceptFrame_freq hb, receiveUnheard_freq hb]
  · rw [if_pos haccept, receiveAccepted_room fun _ => hitems ▸ hlen, ← hitems]
    refine ⟨fun c d hb => ?_, fun hb => ?_, fun e hb hlast => ?_⟩
    · rw [acceptFrame_fdat hb]
    · rw [acceptFrame_seed hb]
    · rw [acceptFrame_upd hb, acceptUpd_last hlast, groupItem, hbuffer]; rfl

end Sys2Proof.Machine
end

section
/-!
PROOF. The Catch-up Unit's commands START, DETACH, SEED and REFILL (sections 6.2 to 6.4 and 6.7; R98, R99, R104,
R115).
-/
namespace Sys2Proof.Machine

/-! ### Attached or not (Table 6-1) -/

theorem isAttached_of_onLine {st : StationState} (h : st = .catchingUp ∨ st = .inStep) :
    isAttached st = true := by
  rcases h with rfl | rfl <;> rfl

theorem isAttached_of_offLine {st : StationState} (h : st = .offline ∨ st = .faulted) :
    isAttached st = false := by
  rcases h with rfl | rfl <;> rfl

/-! ### Handed over without parameters (R138) -/

theorem exec_start {s : State} (hs : Ready s) :
    exec .start s = .next (settle (takeStart { s with port := executing .start })) :=
  congrArg Host.Outcome.next (issue_ready hs .start [] rfl)

theorem exec_detach {s : State} (hs : Ready s) :
    exec .detach s = .next (settle (takeDetach { s with port := executing .detach })) :=
  congrArg Host.Outcome.next (issue_ready hs .detach [] rfl)

theorem exec_seed {s : State} (hs : Ready s) :
    exec .seed s = .next (settle (takeSeed { s with port := executing .seed })) :=
  congrArg Host.Outcome.next (issue_ready hs .seed [] rfl)

theorem exec_refill {s : State} (hs : Ready s) :
    exec .refill s = .next (settle (takeRefill { s with port := executing .refill })) :=
  congrArg Host.Outcome.next (issue_ready hs .refill [] rfl)

/-- A step that changes nothing the arbiter reads leaves nothing to grant at a settled arbiter (R13). -/
theorem ArbiterSettled.next_settle {s t : State} (h : ArbiterSettled s) (hr : t.running = s.running)
    (hn : nextGrant t = nextGrant s) :
    (.next (settle t) : Host.Outcome State Fault Refusal) = .next t :=
  congrArg Host.Outcome.next (h.congr hr hn)

/-! ### START (R98) -/

/-- A START that acts when it is taken leaves the station attached with the code OK (R98). -/
theorem attach_executing (op : Opcode) (s : State) :
    attach { s with port := executing op } = { attached s with port := codePort op .ok } := by
  simp only [attach, giveCode, giveResult, latchCause, portWithResult_code]
  rfl

/-- Settles O25: the three branches of START, each handed over from an executing port. -/
theorem startAttaches : Obligations.StartAttaches := by
  intro s hs
  obtain ⟨_, _, hset⟩ := id hs
  refine ⟨fun hon => ?_, fun hoff => ⟨fun ht => ?_, fun ht => ?_⟩⟩
  · rw [exec_start hs, takeStart, if_pos (isAttached_of_onLine hon), giveCode_executing,
      settle_codePort hs]
  all_goals
    have hout : ¬ isAttached s.station = true := by simp [isAttached_of_offLine hoff]
    rw [exec_start hs, takeStart, if_neg hout]
  · rw [if_pos ht, waitFor_executing, settle_port hset]
  · rw [if_neg (by simp [ht]), attach_executing]
    exact hset.next_settle rfl rfl

/-! ### DETACH (R99, R101) -/

/-- A command that leaves the line completes no SEED, since it holds the port itself (R99, R115). -/
theorem leaveLine_executing_port (st : StationState) (op : Opcode) (s : State) :
    (leaveLine st { s with port := executing op }).port = executing op := by
  simp [portWaits, executing]

/-- DETACH in OFFLINE is refused (R99). -/
theorem takeDetach_offline {s : State} (h : s.station = .offline) :
    takeDetach s = giveCode .notAttached s := by
  unfold takeDetach
  rw [h]

/-- DETACH at an attached station leaves the line in one event (R99, R101). -/
theorem takeDetach_attached {s : State} (h : s.station = .catchingUp ∨ s.station = .inStep) :
    takeDetach s = waitFor .detachTeardown (leaveLine .offline s) := by
  unfold takeDetach
  rcases h with h | h <;> rw [h]

/-- DETACH at a FAULTED station needs no further teardown (R99). -/
theorem takeDetach_faulted {s : State} (h : s.station = .faulted) :
    takeDetach s = if s.teardownPending then waitFor .detachTeardown { s with station := .offline }
      else giveCode .ok { s with station := .offline } := by
  unfold takeDetach
  rw [h]

/-- Settles O26: a refusal, a move without a teardown, or the teardown event of `leftLine_leaveLine`. -/
theorem detachLeavesLine : Obligations.DetachLeavesLine := by
  intro s hs
  obtain ⟨_, _, hset⟩ := id hs
  rw [exec_detach hs]
  refine ⟨fun hoff => ?_, fun hfault ht => ?_, fun hfault ht => ?_, fun hon => ?_⟩
  · rw [takeDetach_offline (s := { s with port := executing .detach }) hoff, giveCode_executing,
      settle_codePort hs]
  · rw [takeDetach_faulted (s := { s with port := executing .detach }) hfault, if_neg (by simp [ht]),
      giveCode_executing .ok .detach { s with station := .offline }]
    exact hset.next_settle rfl rfl
  · rw [takeDetach_faulted (s := { s with port := executing .detach }) hfault, if_pos ht,
      waitFor_executing .detachTeardown .detach { s with station := .offline }]
    exact hset.next_settle rfl rfl
  · rw [takeDetach_attached (s := { s with port := executing .detach }) hon]
    have hleft := leftLine_leaveLine .offline { s with port := executing .detach }
    have hport := leaveLine_executing_port .offline .detach s
    obtain ⟨hlatch, hdetail, _⟩ := leaveLine_causes .offline { s with port := executing .detach }
    refine ⟨_, rfl, ?_, hleft, ?_, ?_, ?_, ?_, ?_⟩
    · simp [waitFor]
    · simp [waitFor]
    · simp [waitFor]
    · simp only [waitFor, hlatch]
      split <;> rfl
    · simp only [waitFor, hdetail]
      split <;> rfl
    · simp only [waitFor, hport]
      rfl

/-! ### SEED (R115) -/

/-- Settles O27: the refusals in their order, then the filled slot. -/
theorem seedFillsSlot : Obligations.SeedFillsSlot := by
  intro s hs
  obtain ⟨_, _, hset⟩ := id hs
  rw [exec_seed hs, takeSeed]
  refine ⟨fun hoff => ?_, fun hon => ?_⟩
  · rw [if_pos (by simp [isAttached_of_offLine hoff]), giveCode_executing, settle_codePort hs]
  rw [if_neg (by simp [isAttached_of_onLine hon])]
  refine ⟨fun hq => ?_, fun hq hslot => ?_, fun hq hslot => ?_⟩
  · rw [if_pos hq, giveCode_executing, settle_codePort hs]
  · rw [if_neg (by simp [hq]), if_pos hslot, giveCode_executing, settle_codePort hs]
  · rw [if_neg (by simp [hq]), if_neg (by simp [hslot]),
      waitFor_executing .seedSlot .seed { s with seedSlot := true, seedAttempts := 0 }]
    exact hset.next_settle rfl rfl

/-! ### REFILL (R104) -/

/-- Settles O28: the chunks of the summary are added as WANTED, and with every cell KNOWN there is none. -/
theorem refillAsksForUnknownChunks : Obligations.RefillAsksForUnknownChunks := by
  intro s hs
  obtain ⟨_, _, hset⟩ := id hs
  rw [exec_refill hs, takeRefill]
  refine ⟨fun hoff => ?_, fun hon => ?_⟩
  · rw [if_pos (by simp [isAttached_of_offLine hoff]), giveCode_executing, settle_codePort hs]
  rw [if_neg (by simp [isAttached_of_onLine hon])]
  refine ⟨fun hq => ?_, fun hq hsum hord ht => ?_⟩
  · rw [if_pos hq, giveCode_executing, settle_codePort hs]
  have hadd : addWanted s.unknownChunks { s with port := executing .refill }
      = { s with requests := withWanted s.requests s.unknownChunks, port := executing .refill } :=
    addWanted_eq (s := { s with port := executing .refill }) hord ht _
  rw [if_neg (by simp [hq]), hadd,
    giveCode_executing .ok .refill { s with requests := withWanted s.requests s.unknownChunks }]
  have hchunks : s.unknownChunks = unknownSummary s.table := hsum
  refine ⟨⟨_, withWanted_spec hord _, fun c => ?_, hset.next_settle rfl rfl⟩, fun hknown => ?_⟩
  · rw [hchunks, mem_unknownSummary]
  · have hnil : s.unknownChunks = [] := hchunks.trans ((unknownSummary_eq_nil _).2 hknown)
    rw [hnil, withWanted_nil hord]
    exact hset.next_settle rfl rfl

end Sys2Proof.Machine
end

section
/-!
PROOF. The request list and the answer list when a timer expires or a frame is accepted (sections 6.4,
6.5 and 6.7; R72, R105 to R111, R116, R125).
-/
namespace Sys2Proof.Machine

/-! ### The request slot's timer after a change of the list (R72) -/

/-- Only what happens to WANTED entries matters to the timer, since it runs for one. -/
theorem requestTimer_filter_congr {s : State} (ht : RequestTimerFits s) {p q : Chunk → Bool}
    (h : ∀ d, isWanted s.requests d = true → p d = q d) :
    (s.requestTimer.filter fun t => p t.chunk) = s.requestTimer.filter fun t => q t.chunk := by
  cases hx : s.requestTimer with
  | none => rfl
  | some t => rw [Option.filter_some, Option.filter_some, h _ ((isWanted_iff _ _).2 (ht t hx))]

theorem requestTimer_filter_self {s : State} (ht : RequestTimerFits s) {p : Chunk → Bool}
    (h : ∀ d, isWanted s.requests d = true → p d = true) :
    (s.requestTimer.filter fun t => p t.chunk) = s.requestTimer :=
  (requestTimer_filter_congr (q := fun _ => true) ht h).trans (by cases s.requestTimer <;> rfl)

/-- The entry that becomes ASKED is no longer WANTED, and every other one is as it was (R105). -/
theorem isWanted_askChunk {l : List Request} {c d : Chunk} (hw : isWanted l d = true) (ms : Nat) :
    isWanted (askChunk l c ms) d = (d != c) := by
  obtain ⟨r, hr, rfl, hst⟩ := (isWanted_iff l d).1 hw
  rw [Bool.eq_iff_iff, isWanted_iff, bne_iff_ne]
  constructor
  · rintro ⟨q, hq, hchunk, hwanted⟩ rfl
    obtain ⟨x, _, rfl⟩ := List.mem_map.1 hq
    by_cases hx : x.chunk = r.chunk ∧ x.state = .wanted
    · rw [if_pos hx] at hwanted
      cases hwanted
    · rw [if_neg hx] at hchunk hwanted
      exact hx ⟨hchunk, hwanted⟩
  · intro hne
    exact ⟨r, List.mem_map.2 ⟨r, hr, if_neg fun h => hne h.1⟩, rfl, hst⟩

/-- Replacing an entry by a WANTED one takes no chunk out of the WANTED ones (R107). -/
theorem isWanted_replaceRequest {l : List Request} {r : Request} {d : Chunk} (hr : r.state = .wanted)
    (hw : isWanted l d = true) : isWanted (replaceRequest l r) d = true := by
  obtain ⟨x, hx, rfl, hst⟩ := (isWanted_iff l d).1 hw
  refine (isWanted_iff _ _).2 ⟨_, List.mem_map.2 ⟨x, hx, rfl⟩, ?_⟩
  split
  · next hc => exact ⟨hc.symm, hr⟩
  · exact ⟨rfl, hst⟩

/-- A chunk has one entry, so that of an ASKED one is not WANTED (R102). -/
theorem not_isWanted_of_asked {l : List Request} (hord : RequestsOrdered l) {r : Request} (hr : r ∈ l)
    (ha : r.state = .asked) : isWanted l r.chunk = false := by
  rw [← Bool.not_eq_true, isWanted_iff]
  rintro ⟨q, hq, hc, hw⟩
  have hfound := (findRequest_eq_some hord r.chunk r).2 ⟨hr, rfl⟩
  rw [(findRequest_eq_some hord r.chunk q).2 ⟨hq, hc⟩] at hfound
  obtain rfl := Option.some.inj hfound
  rw [ha] at hw
  cases hw

/-! ### Fill timers (R107, R125) -/

/-- FILL_TIMER_EXPIRY of an ASKED entry whose timer runs (R107). -/
theorem exec_fillTimerExpiry {s : State} {r : Request} (hord : RequestsOrdered s.requests)
    (hr : r ∈ s.requests) (ha : r.state = .asked) (hf : r.fillTimer.isSome = true) :
    exec (.fillTimerExpiry r.chunk) s = .next (settle (expireFill r s)) := by
  have hfound := (findRequest_eq_some hord r.chunk r).2 ⟨hr, rfl⟩
  simp [exec, execFillTimerExpiry, hfound, ha, hf, answer]

/-- Within the limit the entry is WANTED again, and no backoff timer starts or stops (R107). -/
theorem expireFill_within {s : State} {r : Request} (ht : RequestTimerFits s)
    (h : r.attempts + 1 ≤ s.config.retryLimit.val) :
    expireFill r s = { s with
      requests := replaceRequest s.requests
        { chunk := r.chunk, state := .wanted, attempts := r.attempts + 1, fillTimer := none } } := by
  unfold expireFill
  simp only [exhausts_eq_false h, Bool.false_eq_true, if_false, setRequests]
  rw [requestTimer_filter_self ht fun d hw => isWanted_replaceRequest rfl hw]

theorem expireFill_exhausted {s : State} {r : Request} (h : s.config.retryLimit.val < r.attempts + 1) :
    expireFill r s = failChunk r.chunk s := by
  simp [expireFill, (exhausts_iff _ _).2 h]

/-- The entry of a chunk that was ASKED goes, and the timer of another chunk's stays (R72, R107). -/
theorem fillFailed_asked {s : State} {r : Request} (ht : RequestTimerFits s)
    (hord : RequestsOrdered s.requests) (hr : r ∈ s.requests) (ha : r.state = .asked) :
    fillFailed r.chunk s = withCause .fillFail (BitVec.ofNat 8 r.chunk.val)
      { s with requests := s.requests.filter fun x => x.chunk != r.chunk } := by
  have htimer : (s.requestTimer.filter fun t => t.chunk != r.chunk) = s.requestTimer := by
    refine requestTimer_filter_self (p := fun d => d != r.chunk) ht fun d hw => ?_
    rw [bne_iff_ne]
    rintro rfl
    rw [not_isWanted_of_asked hord hr ha] at hw
    cases hw
  rw [fillFailed_eq ht, htimer]

/-! ### Backoff timers (R72, R77) -/

/-- BACKOFF_EXPIRY of a slot whose timer runs (R72). -/
theorem exec_backoffExpiry {s : State} {slot : CandidateSlot} (h : backoffRuns s slot = true) :
    exec (.backoffExpiry slot) s = .next (settle (expireBackoff slot s)) := by
  simp [exec, execBackoffExpiry, h, answer]

/-- Settles O29: a fill timer by its entry's count, a backoff timer by its slot. -/
theorem timersExpire : Obligations.TimersExpire := by
  refine ⟨fun s r hset hord ht hr ha hf => ?_, fun s hset => ?_⟩
  · rw [exec_fillTimerExpiry hord hr ha hf]
    refine ⟨fun h => ?_, fun h u hu => ?_⟩
    · rw [expireFill_within ht h]
      exact hset.next_settle rfl rfl
    rw [expireFill_exhausted h]
    rw [← fillFailed_asked ht hord hr ha] at hu
    subst hu
    refine ⟨fun ⟨hw, hn⟩ => ?_, fun hw => ?_⟩
    · rw [failChunk_needed hw hn]
      exact hset.next_settle (by simp [fillFailed]) (by simp [nextGrant, fillFailed])
    · rw [failChunk_not_needed hw]
      exact hset.next_settle (by simp [fillFailed]) (by simp [nextGrant, fillFailed])
  · refine ⟨fun h => ?_, fun h => ?_, fun h => ?_, fun g h hg => ?_⟩
    · rw [exec_backoffExpiry (slot := .seed) h]
      exact hset.next_settle rfl rfl
    · rw [exec_backoffExpiry (slot := .request) h]
      exact hset.next_settle rfl rfl
    · rw [exec_backoffExpiry (slot := .answer) h]
      exact hset.next_settle rfl rfl
    · rw [exec_backoffExpiry (slot := .group) h]
      refine (hset.next_settle (t := expireBackoff .group s) rfl rfl).trans ?_
      simp [expireBackoff, setGroupState, hg]

/-! ### The answer list (R109 to R111) -/

theorem setAnswers_sameHead {l : List Chunk} {s : State} (h : l.head? = s.answers.head?) :
    setAnswers l s = { s with answers := l } := if_pos h

theorem setAnswers_newHead {l : List Chunk} {s : State} (h : l.head? ≠ s.answers.head?) :
    setAnswers l s = { s with answers := l, answerAttempts := 0, answerTimer := none } := if_neg h

/-- A chunk joins the answers of an IN-STEP station that is not quiet, if it is absent (R110). -/
theorem addAnswer_absent {s : State} {c : Chunk} (hst : s.station = .inStep)
    (hq : s.config.quiet = false) (hc : c ∉ s.answers) :
    addAnswer c s = setAnswers (s.answers ++ [c]) s := by
  simp [addAnswer, hst, hq, hc]

theorem addAnswer_kept {s : State} {c : Chunk}
    (h : s.station ≠ .inStep ∨ s.config.quiet = true ∨ c ∈ s.answers) : addAnswer c s = s := by
  refine if_neg fun ⟨hst, hq, hc⟩ => ?_
  rcases h with h | h | h
  · exact h hst
  · simp [h] at hq
  · simp [h] at hc

/-- Without a chunk that is not the head, the head is the same (R111). -/
theorem head?_filter_ne {l : List Chunk} {c : Chunk} (h : l.head? ≠ some c) :
    (l.filter fun d => d != c).head? = l.head? := by
  cases l with
  | nil => rfl
  | cons a l =>
    have ha : a ≠ c := fun e => h (congrArg some e)
    rw [List.filter_cons_of_pos (by simpa using ha)]
    rfl

/-! ### What an acceptance does (R105, R106, R108, R110, R111, R116) -/

/-- The request list at the acceptance of a FREQ (R105, R106). -/
theorem setRequests_askChunk {s : State} (ht : RequestTimerFits s) (c : Chunk) (ms : Nat) :
    setRequests (askChunk s.requests c ms) s = { s with
      requests := askChunk s.requests c ms
      requestTimer := s.requestTimer.filter fun t => t.chunk != c } := by
  rw [setRequests, requestTimer_filter_congr ht fun d hw => isWanted_askChunk hw ms]

/-- The request list at the acceptance of an FDAT (R108). -/
theorem setRequests_withoutChunk {s : State} (ht : RequestTimerFits s) (c : Chunk) :
    setRequests (withoutChunk s.requests c) s = { s with
      requests := withoutChunk s.requests c
      requestTimer := s.requestTimer.filter fun t => t.chunk != c } := by
  rw [setRequests, requestTimer_filter_congr ht fun d hw => isWanted_withoutChunk hw]

/-- The answer list emptied: a head that goes takes its count and its timer with it (R109). -/
theorem setAnswers_nil (s : State) :
    setAnswers [] s = { s with
      answers := []
      answerAttempts := if s.answers = [] then s.answerAttempts else 0
      answerTimer := if s.answers = [] then s.answerTimer else none } := by
  cases ha : s.answers with
  | nil => simp [setAnswers, ha]
  | cons c l => simp [setAnswers, ha]

/-- The request list emptied (R116). -/
theorem setRequests_nil (s : State) :
    setRequests [] s = { s with requests := [], requestTimer := none } := by
  have htimer : (s.requestTimer.filter fun t => isWanted [] t.chunk) = none := by simp [isWanted]
  rw [setRequests, htimer]

/-- Settles O53: the request list frame kind by frame kind, then the answers by whether the head changes. -/
theorem acceptedFramesAreReported : Obligations.AcceptedFramesAreReported := by
  intro s _ ht _
  refine ⟨fun c u hu => ?_, fun c u hu => ?_, ?_⟩
  · have hfreq : acceptFreq c s = addAnswer c u := by
      rw [acceptFreq, setRequests_askChunk ht, hu]
      rfl
    rw [hfreq]
    have hans : u.answers = s.answers := hu ▸ rfl
    have hst : u.station = s.station := hu ▸ rfl
    have hconf : u.config = s.config := hu ▸ rfl
    rw [← hans, ← hst, ← hconf]
    refine ⟨addAnswer_kept, fun hin hq hc => ?_⟩
    rw [addAnswer_absent hin hq hc]
    refine ⟨fun hnil => ?_, fun hne => ?_⟩
    · rw [setAnswers_newHead (by simp [hnil]), hnil]
      rfl
    · exact setAnswers_sameHead (List.head?_append_of_ne_nil _ hne)
  · have hfdat : acceptFdat c s = setAnswers (s.answers.filter fun d => d != c) { s with
        requests := s.requests.filter fun r => r.chunk != c
        requestTimer := s.requestTimer.filter fun t => t.chunk != c } := by
      rw [acceptFdat, setRequests_withoutChunk ht]
      rfl
    rw [hfdat, hu]
    refine ⟨fun h => setAnswers_sameHead (head?_filter_ne h), fun h => setAnswers_newHead ?_⟩
    intro he
    have hmem : c ∈ s.answers.filter fun d => d != c := List.mem_of_head? (he.trans h)
    simp at hmem
  · obtain ⟨v, hv⟩ : ∃ v, v = setAnswers [] (setRequests [] s) := ⟨_, rfl⟩
    have hseed : acceptSeed s = emptySeedSlot .ok v := by rw [hv, acceptSeed]
    rw [setRequests_nil, setAnswers_nil] at hv
    rw [hseed]
    refine ⟨if s.answers = [] then s.answerAttempts else 0, _, rfl, fun hw => ?_, fun hp => ?_⟩
    · have hwv : portWaits .seedSlot v = false := by rw [hv]; exact hw
      rw [emptySeedSlot_not_waiting hwv, hv]
    · have hpv : v.port = waitingPort .seed .seedSlot := by rw [hv]; exact hp
      rw [emptySeedSlot_waiting hpv, hv]

end Sys2Proof.Machine
end

section
/-!
PROOF. The apply grants of an FDAT and a SEED item (sections 6.6 and 6.7; R10, R113, R114, R117).
-/
namespace Sys2Proof.Machine

theorem endGrant_removeHead_eq_withoutHead (s : State) : endGrant (removeHead s) = withoutHead s := rfl

/-- The record that an FDAT carries for the k-th cell of its chunk (R49, R113). -/
theorem records_eq_carriedRecord (d : ChunkData) {c : Chunk} {i : Byte} {k : Nat} (hk : k < 16)
    (hi : i.toNat = 16 * c.val + k) : d.records[k]? = some (carriedRecord d i) := by
  have hmod : i.toNat % 16 = k := by omega
  unfold carriedRecord
  simp only [hmod]
  exact List.getElem?_eq_getElem _

/-- Divergences are counted cell by cell, from the record that each cell of the chunk is given (R114). -/
theorem divergences_eq_countP {t : Table} {c : Chunk} {d : ChunkData} {f : Nat → Bool}
    (hf : ∀ k r, k < 16 → d.records[k]? = some r →
      f k = ((cellAt t (BitVec.ofNat 8 (16 * c.val + k))).known
        && (cellAt t (BitVec.ofNat 8 (16 * c.val + k))).record != r)) :
    divergences t c d = (List.range 16).countP f := by
  have hzip : (List.zip (chunkCells t c) d.records).map
      (fun p => p.1.known && p.1.record != p.2) = (List.range 16).map f := by
    apply List.ext_getElem
    · simp [length_chunkCells, d.size]
    · intro k h1 h2
      have hk : k < 16 := by simpa using h2
      have hr : k < d.records.length := by rw [d.size]; exact hk
      rw [List.getElem_map, List.getElem_map, List.getElem_range,
        hf k d.records[k] hk (List.getElem?_eq_getElem hr)]
      simp [getElem_chunkCells]
  calc divergences t c d
      = ((List.zip (chunkCells t c) d.records).map
          fun p => p.1.known && p.1.record != p.2).countP id := by
        rw [List.countP_map]; rfl
    _ = (List.range 16).countP f := by rw [hzip, List.countP_map]; rfl

/-- FDAT_APPLY at the head of the list, with the divergences counted before the adoption (R113, R114). -/
theorem exec_fdatApply {s : State} {c : Chunk} {d : ChunkData} {rest : List Item}
    (hr : s.running = some .apply) (hi : s.items = .fdat c d :: rest) :
    exec .fdatApply s = .next (settle (applyFdat c d s)) := by
  simp [exec, execFdatApply, hr, hi, answer]

theorem applyFdat_agreeing {s : State} {c : Chunk} {d : ChunkData} (h : divergences s.table c d = 0) :
    applyFdat c d s
      = reportStatus s.table (withoutHead { s with table := adoptChunk s.table c d }) := by
  simp [applyFdat, h, endGrant_removeHead_eq_withoutHead]

theorem applyFdat_diverging {s : State} {c : Chunk} {d : ChunkData} (h : 0 < divergences s.table c d) :
    applyFdat c d s
      = reportStatus s.table (withoutHead (withCause .diverge (BitVec.ofNat 8 c.val)
          { s with table := adoptChunk s.table c d, lastDivergence := divergences s.table c d })) := by
  simp only [applyFdat, if_pos h, endGrant_removeHead_eq_withoutHead, withCause_eq_latchCause]

/-- Settles O39: the adopted chunk cell by cell, and the grant by whether a cell diverged. -/
theorem fdatApplyGrant : Obligations.FdatApplyGrant := by
  intro s c d rest hr hi
  rw [exec_fdatApply hr hi]
  refine ⟨adoptChunk s.table c d, divergences s.table c d, fun i hic => ?_, fun k hk i hik => ?_,
    divergences_eq_countP fun k r _ hrec => by simp only [hrec], fun h => ?_, fun h => ?_⟩
  · rw [cellAt_adoptChunk, if_neg hic]
  · have hic : chunkOfCell i = c := by
      rw [← chunkOfCell_ofNat c k hk, ← hik, BitVec.ofNat_toNat, BitVec.setWidth_eq]
    refine ⟨carriedRecord d i, records_eq_carriedRecord d hk hik, ?_⟩
    rw [cellAt_adoptChunk, if_pos hic]
    rfl
  · rw [applyFdat_agreeing h]
  · rw [applyFdat_diverging h]

/-- Settles O40: every cell adopts the zero record, and no divergence is counted. -/
theorem seedApplyGrant : Obligations.SeedApplyGrant := by
  intro s rest hr hi
  refine ⟨seedAll s.table, cellAt_seedAll _, ?_⟩
  have he : exec .seedApply s = .next (settle (applySeed s)) := by
    simp [exec, execSeedApply, hr, hi, answer]
  rw [he, applySeed, endGrant_removeHead_eq_withoutHead]

end Sys2Proof.Machine
end

section
/-!
PROOF. The Commit Unit's commands STAGE, UNSTAGE ALL, COMMIT, WITHDRAW and RESULTS (sections 7.2 to 7.4,
7.6 and 7.8; R120 to R124, R130, R133).
-/
namespace Sys2Proof.Machine

/-! ### Handed over to the Commit Unit (R138) -/

theorem exec_stage {s : State} (hs : Ready s) (e : Entry) :
    exec (.stage e) s = .next (settle (takeStage e { s with port := executing .stage })) := by
  have hissue : exec (.stage e) s = .next (issue .stage (entryBytes e) s) := rfl
  rw [hissue, issue_ready hs .stage (entryBytes e) rfl, handOver, entryOfBytes_entryBytes]

theorem exec_unstageAll {s : State} (hs : Ready s) :
    exec .unstageAll s = .next (settle (takeUnstageAll { s with port := executing .unstageAll })) :=
  congrArg Host.Outcome.next (issue_ready hs .unstageAll [] rfl)

theorem exec_commit {s : State} (hs : Ready s) (strict : Byte) :
    exec (.commit strict) s = .next (settle (takeCommit strict { s with port := executing .commit })) :=
  congrArg Host.Outcome.next (issue_ready hs .commit [strict] rfl)

theorem exec_withdraw {s : State} (hs : Ready s) :
    exec .withdraw s = .next (settle (takeWithdraw { s with port := executing .withdraw })) :=
  congrArg Host.Outcome.next (issue_ready hs .withdraw [] rfl)

theorem exec_results {s : State} (hs : Ready s) :
    exec .results s = .next (settle (takeResults { s with port := executing .results })) :=
  congrArg Host.Outcome.next (issue_ready hs .results [] rfl)

/-- A command that ends with a result at a ready part, and that raised no claim and started no grant,
leaves the arbiter nothing to do (R13, R139). -/
theorem Ready.next_result {s t : State} (hs : Ready s) (hr : t.running = s.running)
    (hn : nextGrant t = nextGrant s) (op : Opcode) {bytes : List Byte} (hb : bytes ≠ []) :
    (.next (settle (giveResult bytes { t with port := executing op })) : Host.Outcome State Fault Refusal)
      = .next { t with port := resultPort op bytes } := by
  obtain ⟨_, _, hset⟩ := hs
  rw [giveResult_executing bytes op t hb]
  exact hset.next_settle hr hn

theorem Ready.next_code {s t : State} (hs : Ready s) (hr : t.running = s.running)
    (hn : nextGrant t = nextGrant s) (op : Opcode) (c : Code) :
    (.next (settle (giveCode c { t with port := executing op })) : Host.Outcome State Fault Refusal)
      = .next { t with port := codePort op c } :=
  hs.next_result hr hn op (List.cons_ne_nil _ _)

/-! ### STAGE and UNSTAGE ALL (R120, R121) -/

theorem takeStage_faulted {s : State} (e : Entry) (h : s.station = .faulted) :
    takeStage e s = giveCode .notAttached s := if_pos h

theorem takeStage_full {s : State} (e : Entry) (h : s.station ≠ .faulted)
    (hf : Config.groupCapacity ≤ s.staging.length) : takeStage e s = giveCode .full s := by
  rw [takeStage, if_neg h, if_pos hf]

theorem takeStage_illegal {s : State} {e : Entry} (h : s.station ≠ .faulted)
    (hf : s.staging.length < Config.groupCapacity) (he : Illegal s.staging.length e) :
    takeStage e s = giveCode .badEntry s := by
  have hillegal : entryLegal s.staging.length e = false := by
    rw [← Bool.not_eq_true, entryLegal_iff, not_not]
    exact he
  rw [takeStage, if_neg h, if_neg (not_le.2 hf), if_pos (by simp [hillegal])]

theorem takeStage_legal {s : State} {e : Entry} (h : s.station ≠ .faulted)
    (hf : s.staging.length < Config.groupCapacity) (he : ¬ Illegal s.staging.length e) :
    takeStage e s = giveCode .ok { s with staging := s.staging ++ [e] } := by
  have hlegal : entryLegal s.staging.length e = true := (entryLegal_iff _ e).2 he
  rw [takeStage, if_neg h, if_neg (not_le.2 hf), if_neg (by simp [hlegal])]

/-- Settles O20: STAGE's three refusals in their order, the entry appended, and the list emptied. -/
theorem stageAndUnstage : Obligations.StageAndUnstage := by
  refine ⟨fun e s hs => ?_, fun s hs => ?_⟩
  · rw [exec_stage hs]
    refine ⟨fun hst => ?_, fun hst hf => ?_, fun hst hf he => ?_, fun hst hf he => ?_⟩
    · rw [takeStage_faulted (s := { s with port := executing .stage }) e hst]
      exact hs.next_code rfl rfl .stage .notAttached
    · rw [takeStage_full (s := { s with port := executing .stage }) e hst hf]
      exact hs.next_code rfl rfl .stage .full
    · rw [takeStage_illegal (s := { s with port := executing .stage }) hst hf he]
      exact hs.next_code rfl rfl .stage .badEntry
    · rw [takeStage_legal (s := { s with port := executing .stage }) hst hf he]
      exact hs.next_code (t := { s with staging := s.staging ++ [e] }) rfl rfl .stage .ok
  · rw [exec_unstageAll hs]
    exact hs.next_code (t := { s with staging := [] }) rfl rfl .unstageAll .ok

/-! ### The tests of COMMIT, in the order of Table 7-2 (R122) -/

theorem commitRefusal_badValue {strict : Byte} (s : State) (h0 : strict ≠ 0) (h1 : strict ≠ 1) :
    commitRefusal strict s = some .badValue := if_pos ⟨h0, h1⟩

/-- A strict byte of 0 or 1 passes the first test. -/
theorem strict_valid {strict : Byte} (h : strict = 0 ∨ strict = 1) : ¬ (strict ≠ 0 ∧ strict ≠ 1) :=
  fun ⟨h0, h1⟩ => h.elim h0 h1

theorem commitRefusal_notAttached {strict : Byte} {s : State} (hv : strict = 0 ∨ strict = 1)
    (hst : s.station = .offline ∨ s.station = .faulted) :
    commitRefusal strict s = some .notAttached := by
  rw [commitRefusal, if_neg (strict_valid hv), if_pos (by simp [isAttached_of_offLine hst])]

section Attached

variable {strict : Byte} {s : State} (hv : strict = 0 ∨ strict = 1)
  (hst : s.station = .catchingUp ∨ s.station = .inStep)

include hv hst

theorem commitRefusal_quiet (hq : s.config.quiet = true) : commitRefusal strict s = some .quiet := by
  rw [commitRefusal, if_neg (strict_valid hv), if_neg (by simp [isAttached_of_onLine hst]), if_pos hq]

theorem commitRefusal_empty (hq : s.config.quiet = false) (hl : s.staging = []) :
    commitRefusal strict s = some .empty := by
  rw [commitRefusal, if_neg (strict_valid hv), if_neg (by simp [isAttached_of_onLine hst]),
    if_neg (by simp [hq]), if_pos hl]

theorem commitRefusal_inUse (hq : s.config.quiet = false) (hl : s.staging ≠ [])
    (hu : s.committed.isSome = true ∨ s.applyPending = true) : commitRefusal strict s = some .inUse := by
  rw [commitRefusal, if_neg (strict_valid hv), if_neg (by simp [isAttached_of_onLine hst]),
    if_neg (by simp [hq]), if_neg hl, if_pos hu]

/-- Past the first five tests only the test on UNKNOWN named cells is left. -/
theorem commitRefusal_last (hq : s.config.quiet = false) (hl : s.staging ≠ []) (hc : s.committed = none)
    (hp : s.applyPending = false) :
    commitRefusal strict s
      = if s.config.impliedFill = false ∧ s.staging.all (namedKnown s.table) = false then some .notKnown
        else none := by
  rw [commitRefusal, if_neg (strict_valid hv), if_neg (by simp [isAttached_of_onLine hst]),
    if_neg (by simp [hq]), if_neg hl, if_neg (by simp [hc, hp])]
  simp only [Bool.not_eq_true']

end Attached

/-- The cells that a list of entries names are all KNOWN (R22, R122). -/
theorem all_namedKnown_iff (t : Table) (l : List Entry) :
    l.all (namedKnown t) = true ↔ ∀ e ∈ l, ∀ i, Names e i → (cellAt t i).known = true := by
  simp only [List.all_eq_true, namedKnown_iff]

theorem not_all_namedKnown_iff (t : Table) (l : List Entry) :
    l.all (namedKnown t) = false ↔ ∃ e ∈ l, ∃ i, Names e i ∧ (cellAt t i).known = false := by
  rw [← Bool.not_eq_true, all_namedKnown_iff]
  simp only [not_forall, exists_prop, Bool.not_eq_true]

/-- A COMMIT refused by a test of Table 7-2 changes nothing but the port (R122). -/
theorem exec_commit_refused {strict : Byte} {s : State} {c : Code} (hs : Ready s)
    (h : commitRefusal strict s = some c) :
    exec (.commit strict) s = .next { s with port := codePort .commit c } := by
  have hx : commitRefusal strict { s with port := executing .commit } = some c := h
  rw [exec_commit hs, takeCommit, hx]
  exact hs.next_code rfl rfl .commit c

/-- Settles O21: each refusal is the first test of Table 7-2 that applies. -/
theorem commitRefusals : Obligations.CommitRefusals := by
  intro strict s hs
  refine ⟨fun h0 h1 => ?_, fun hv => ⟨fun hst => ?_, fun hst => ⟨fun hq => ?_, fun hq =>
    ⟨fun hl => ?_, fun hl => ⟨fun hu => ?_, fun hc hp hi hn => ?_⟩⟩⟩⟩⟩
  · exact exec_commit_refused hs (commitRefusal_badValue s h0 h1)
  · exact exec_commit_refused hs (commitRefusal_notAttached hv hst)
  · exact exec_commit_refused hs (commitRefusal_quiet hv hst hq)
  · exact exec_commit_refused hs (commitRefusal_empty hv hst hq hl)
  · exact exec_commit_refused hs (commitRefusal_inUse hv hst hq hl hu)
  · refine exec_commit_refused hs ?_
    rw [commitRefusal_last hv hst hq hl hc hp, if_pos ⟨hi, (not_all_namedKnown_iff _ _).2 hn⟩]

/-! ### An accepted COMMIT (R123, R124) -/

/-- The state after an accepted COMMIT, apart from its request list and its port: the staging list is the
committed group, and the results list starts again (R123). -/
def withCommitted (strict : Byte) (st : GroupState) (chunks : List Chunk) (s : State) : State :=
  { s with
    staging := []
    committed := some { entries := s.staging, strict := strict == 1, state := st }
    results :=
      { status := .pending, attempts := 0
        records := List.replicate s.staging.length ResultRecord.notReached }
    groupAttempts := 0
    needed := chunks }

theorem acceptCommit_queued {s : State} (strict : Byte) (h : s.staging.all (namedKnown s.table) = true) :
    acceptCommit strict s = giveCode .ok (withCommitted strict .queued [] s) := by
  simp [acceptCommit, withCommitted, h]

theorem acceptCommit_waitFill {s : State} (strict : Byte) (hord : RequestsOrdered s.requests)
    (ht : RequestTimerFits s) (hi : s.config.impliedFill = true)
    (h : s.staging.all (namedKnown s.table) = false) :
    acceptCommit strict s = giveCode .ok
      { withCommitted strict .waitFill (neededChunks s.table s.staging) s with
        requests := withWanted s.requests (neededChunks s.table s.staging) } := by
  have hadd := addWanted_eq
    (s := withCommitted strict .waitFill (neededChunks s.table s.staging) s) hord ht
    (neededChunks s.table s.staging)
  have haccept : acceptCommit strict s = giveCode .ok (addWanted (neededChunks s.table s.staging)
      (withCommitted strict .waitFill (neededChunks s.table s.staging) s)) := by
    simp [acceptCommit, withCommitted, h, hi]
  exact haccept.trans (congrArg (giveCode .ok) hadd)

theorem exec_commit_accepted {strict : Byte} {s : State} (hs : Ready s)
    (h : commitRefusal strict s = none) :
    exec (.commit strict) s = .next (settle (acceptCommit strict { s with port := executing .commit })) := by
  have hx : commitRefusal strict { s with port := executing .commit } = none := h
  rw [exec_commit hs, takeCommit, hx]

/-- Settles O22: the group is queued when every named cell is KNOWN, and else waits for its chunks. -/
theorem commitTakesStagingList : Obligations.CommitTakesStagingList := by
  intro strict s hs hv hst hq hl hc hp hord ht
  have hlast := commitRefusal_last hv hst hq hl hc hp
  refine ⟨fun hknown => ?_, fun hunknown hi => ?_⟩
  · have hall := (all_namedKnown_iff _ _).2 hknown
    rw [exec_commit_accepted hs (hlast.trans (if_neg (by simp [hall]))),
      acceptCommit_queued (s := { s with port := executing .commit }) strict hall]
    exact hs.next_code (t := withCommitted strict .queued [] s) rfl rfl .commit .ok
  · have hall := (not_all_namedKnown_iff _ _).2 hunknown
    refine ⟨neededChunks s.table s.staging, withWanted s.requests (neededChunks s.table s.staging),
      neededChunks_sorted _ _, mem_neededChunks _ _, withWanted_spec hord _, ?_⟩
    rw [exec_commit_accepted hs (hlast.trans (if_neg (by simp [hi]))),
      acceptCommit_waitFill (s := { s with port := executing .commit }) strict hord ht hi hall]
    exact hs.next_code
      (t := { withCommitted strict .waitFill (neededChunks s.table s.staging) s with
        requests := withWanted s.requests (neededChunks s.table s.staging) }) rfl rfl .commit .ok

/-! ### WITHDRAW (R130, Table 7-4) -/

theorem takeWithdraw_none {s : State} (h : s.committed = none) :
    takeWithdraw s = giveCode .nothing s := by
  rw [takeWithdraw, h]

/-- A group whose entry is on the line is past withdrawal (Table 7-4). -/
theorem takeWithdraw_tooLate {s : State} {g : CommittedGroup} (h : s.committed = some g)
    (hg : g.state = .contending ∨ g.state = .sending) : takeWithdraw s = giveCode .tooLate s := by
  unfold takeWithdraw
  rcases hg with hg | hg <;> simp only [h, hg]

/-- A group with nothing on the line ends WITHDRAWN (R130). -/
theorem takeWithdraw_withdrawn {s : State} {g : CommittedGroup} (h : s.committed = some g)
    (hg : g.state = .waitFill ∨ g.state = .queued ∨ g.state = .backoff) :
    takeWithdraw s = giveCode .withdrawn (dropCommitted .withdrawn s) := by
  unfold takeWithdraw
  rcases hg with hg | hg | hg <;> simp only [h, hg]

/-- Settles O23: no group, a group on the line, and a group that is not. -/
theorem withdrawByGroupState : Obligations.WithdrawByGroupState := by
  intro s hs
  rw [exec_withdraw hs]
  refine ⟨fun hc => ?_, fun g hc => ⟨fun hg => ?_, fun hg => ?_⟩⟩
  · rw [takeWithdraw_none (s := { s with port := executing .withdraw }) hc]
    exact hs.next_code rfl rfl .withdraw .nothing
  · rw [takeWithdraw_tooLate (s := { s with port := executing .withdraw }) hc hg]
    exact hs.next_code rfl rfl .withdraw .tooLate
  · rw [takeWithdraw_withdrawn (s := { s with port := executing .withdraw }) hc hg]
    exact hs.next_code (t := dropCommitted .withdrawn s) rfl rfl .withdraw .withdrawn

/-! ### RESULTS (R133) -/

theorem resultsBytes_ne_nil (r : Results) : resultsBytes r ≠ [] := List.cons_ne_nil _ _

/-- Settles O24: the codes of Tables 10-7 and 10-8, and the whole list placed as the result. -/
theorem resultsReturnsWholeList : Obligations.ResultsReturnsWholeList := by
  refine ⟨rfl, rfl, rfl, rfl, rfl, rfl, rfl, rfl, rfl, rfl, rfl, rfl, rfl, rfl, fun s hs => ?_⟩
  rw [exec_results hs]
  exact hs.next_result rfl rfl .results (resultsBytes_ne_nil s.results)

end Sys2Proof.Machine
end

section
/-!
PROOF. The Local Port (sections 8.1 to 8.3; R138, R140 to R142, Tables 8-4 and 8-5): commands as runs of
data writes, misuse, result reads and refills, and the port flush.
-/
namespace Sys2Proof.Machine

/-! ### A run of data writes (R138, log entry 2) -/

theorem exec_dataWrite (b : Byte) (s : State) :
    exec (.dataWrite b) s = .next (settle (writeData b s)) := rfl

/-- Data writes one after the other always answer, and lead to one state. -/
theorem dataWrites_iff (bytes : List Byte) (s t : State) :
    DataWrites bytes s t ↔ bytes.foldl acceptByte s = t := by
  induction bytes generalizing s with
  | nil => rfl
  | cons b bytes ih =>
    have hb : exec (.dataWrite b) s = .next (acceptByte s b) := rfl
    simp only [DataWrites, hb, Host.Outcome.next.injEq, exists_eq_left', ih, List.foldl_cons]

/-- A command's row leads where its code byte and its parameter bytes lead, written in this order. -/
theorem next_issue_iff (op : Opcode) (ps : List Byte) (s t : State) :
    (.next (issue op ps s) : Host.Outcome State Fault Refusal) = .next t
      ↔ DataWrites (opcodeByte op :: ps) s t := by
  rw [dataWrites_iff, Host.Outcome.next.injEq]
  rfl

/-! ### Codes (Tables 10-17 and 10-18) -/

theorem mem_allOpcodes (op : Opcode) : op ∈ allOpcodes := by cases op <;> decide

/-- A code byte names the one command whose code it is. -/
theorem opcodeOfByte_eq_some_iff (b : Byte) (op : Opcode) :
    opcodeOfByte b = some op ↔ opcodeByte op = b := by
  constructor
  · intro h
    have hcode := List.find?_some h
    exact beq_iff_eq.1 hcode
  · rintro rfl
    exact opcodeOfByte_opcodeByte op

/-- A byte that is no command's code names none. -/
theorem opcodeOfByte_eq_none_iff (b : Byte) :
    opcodeOfByte b = none ↔ b ∉ allOpcodes.map opcodeByte := by
  simp [opcodeOfByte, List.find?_eq_none]

/-- The rows of Table 10-18 are the commands with their codes and their parameter counts. -/
theorem mem_commandTable_iff (b : Byte) (op : Opcode) (n : Nat) :
    opcodeOfByte b = some op ∧ opcodeParams op = n
      ↔ (b, op, n) ∈ allOpcodes.map fun op => (opcodeByte op, op, opcodeParams op) := by
  simp [opcodeOfByte_eq_some_iff, mem_allOpcodes]

/-! ### One data write in COMMAND (R138) -/

theorem takeParameters_collects {op : Opcode} {ps : List Byte} (h : ps.length < opcodeParams op)
    (s : State) : takeParameters op ps s = { s with port := collectingPort op ps } := if_pos h

theorem takeParameters_complete {op : Opcode} {ps : List Byte} (h : opcodeParams op ≤ ps.length)
    (s : State) : takeParameters op ps s = handOver op ps { s with port := executing op } :=
  if_neg (Nat.not_lt.2 h)

section OutOfReset

variable {s : State} (hr : inReset s = false) (hset : ArbiterSettled s)

include hr hset

theorem exec_dataWrite_invalid (hp : s.port.phase = .command) (hc : s.port.command = none) {b : Byte}
    (hb : opcodeOfByte b = none) : exec (.dataWrite b) s
      = .next { s with
          port := { phase := .result, fifo := [0x01], command := none, snapshot := [] } } := by
  have hport : portWithResult [codeByte .invalid] s.port
      = { phase := .result, fifo := [0x01], command := none, snapshot := [] } := by
    simp [portWithResult, hc, codeByte, Config.fifoDepth]
  rw [exec_dataWrite, writeData_invalid hr hp hc hb, giveCode, giveResult, hport]
  exact hset.next_settle rfl rfl

/-- A code byte fixes the number of parameters; without any the command is handed over at once. -/
theorem exec_dataWrite_code (hp : s.port.phase = .command) (hc : s.port.command = none) {b : Byte}
    {op : Opcode} (hb : opcodeOfByte b = some op) :
    (opcodeParams op ≠ 0 →
      exec (.dataWrite b) s = .next { s with port := collectingPort op [] })
    ∧ (opcodeParams op = 0 →
      exec (.dataWrite b) s = .next (settle (handOver op [] { s with port := executing op }))) := by
  rw [exec_dataWrite, writeData_code hr hp hc hb]
  refine ⟨fun hn => ?_, fun hn => ?_⟩
  · rw [takeParameters_collects (ps := []) (Nat.pos_of_ne_zero hn)]
    exact hset.next_settle rfl rfl
  · rw [takeParameters_complete (Nat.le_of_eq hn)]

/-- A parameter byte joins those taken; the last one hands the command over. -/
theorem exec_dataWrite_parameter (hp : s.port.phase = .command) {c : CommandInProgress}
    (hc : s.port.command = some c) (b : Byte) :
    (s.port.fifo.length + 1 < opcodeParams c.op →
      exec (.dataWrite b) s = .next { s with port := collectingPort c.op (s.port.fifo ++ [b]) })
    ∧ (s.port.fifo.length + 1 = opcodeParams c.op →
      exec (.dataWrite b) s
        = .next (settle (handOver c.op (s.port.fifo ++ [b]) { s with port := executing c.op }))) := by
  have hlen : (s.port.fifo ++ [b]).length = s.port.fifo.length + 1 := List.length_append
  rw [exec_dataWrite, writeData_parameter hr hp hc b]
  refine ⟨fun hn => ?_, fun hn => ?_⟩
  · rw [takeParameters_collects (hlen.trans_lt hn)]
    exact hset.next_settle rfl rfl
  · rw [takeParameters_complete (hn.ge.trans hlen.ge)]

end OutOfReset

/-- Settles O6: the two tables, each row as its bytes, and one written byte by what the port holds. -/
theorem dataWriteTakesCommandBytes : Obligations.DataWriteTakesCommandBytes := by
  refine ⟨mem_commandTable_iff, fun c b => ?_, fun s t => ?_, opcodeOfByte_eq_none_iff,
    opcodeParams_le, fun b s hr hp hset => ⟨fun hc => ?_, fun c hc => ?_⟩⟩
  · rw [eq_comm]
    cases c <;> simp [codeByte]
  · exact ⟨next_issue_iff .identify [] s t, fun p => next_issue_iff .configure (configByteList p) s t,
      next_issue_iff .showConfig [] s t, fun v => next_issue_iff .lock [v] s t,
      next_issue_iff .start [] s t, next_issue_iff .detach [] s t, next_issue_iff .reset [] s t,
      fun e => next_issue_iff .stage (entryBytes e) s t, next_issue_iff .unstageAll [] s t,
      fun v => next_issue_iff .commit [v] s t, next_issue_iff .withdraw [] s t,
      next_issue_iff .results [] s t, fun first count => next_issue_iff .read [first, count] s t,
      fun first count setting => next_issue_iff .watch [first, count, setting] s t,
      next_issue_iff .takeChanges [] s t, next_issue_iff .peekChanges [] s t,
      next_issue_iff .seed [] s t, next_issue_iff .refill [] s t, next_issue_iff .status [] s t,
      next_issue_iff .peekStatus [] s t, next_issue_iff .ackAll [] s t⟩
  · exact ⟨exec_dataWrite_invalid hr hset hp hc, fun op hb => exec_dataWrite_code hr hset hp hc hb⟩
  · have hlen : (s.port.fifo ++ [b]).length = s.port.fifo.length + 1 := List.length_append
    have h := exec_dataWrite_parameter hr hset hp hc b
    rw [collectingPort, hlen] at h
    exact h

/-! ### Misuse (R141, Table 8-4) -/

/-- A misused access leaves the arbiter nothing to do (R13, R141). -/
theorem next_settle_misusePort {s : State} (h : ArbiterSettled s) (m : Misuse) :
    (.next (settle (misusePort m s)) : Host.Outcome State Fault Refusal)
      = .next (withCause .portError (misuseCode m) s) := h.next_settle rfl rfl

/-- Both rows that read the data address have one meaning, whichever the port makes of it. -/
theorem exec_read_misused {s : State} {m : Misuse} (h : ArbiterSettled s)
    (hm : readData s = misuseRead m s) :
    exec .misusedRead s = .next (withCause .portError (misuseCode m) { s with dataOut := some 0 })
    ∧ exec .resultRead s
      = .next (withCause .portError (misuseCode m) { s with dataOut := some 0 }) := by
  have hread : (.next (settle (readData s)) : Host.Outcome State Fault Refusal)
      = .next (withCause .portError (misuseCode m) { s with dataOut := some 0 }) := by
    rw [hm]
    exact next_settle_misusePort (s := { s with dataOut := some 0 }) h m
  exact ⟨hread, hread⟩

theorem exec_portFlush_inReset {s : State} (hr : inReset s = true) (v : Byte) :
    exec (.portFlush v) s = .next s := if_pos hr

theorem exec_portFlush {s : State} (hr : inReset s = false) (v : Byte) :
    exec (.portFlush v) s = .next (settle (flushPort s)) := if_neg (by simp [hr])

/-- A port flush is no misuse: no latch, no detail and no pin changes (R142). -/
theorem exec_portFlush_causes {s t : State} {v : Byte} (h : exec (.portFlush v) s = .next t) :
    t.latches = s.latches ∧ t.details = s.details ∧ t.attn = s.attn := by
  by_cases hr : inReset s = true
  · rw [exec_portFlush_inReset hr] at h
    cases h
    exact ⟨rfl, rfl, rfl⟩
  · rw [exec_portFlush (by simpa using hr)] at h
    cases h
    simp [flushPort]

/-- Settles O7: the phase decides the kind, and in RESULT a drained FIFO does. -/
theorem misuseLatchesPortErrorOnly : Obligations.MisuseLatchesPortErrorOnly := by
  intro s hr hset
  refine ⟨fun hp => exec_read_misused hset (readData_command hr hp), fun hp b => ?_, fun hp b => ?_,
    fun hp => ?_, fun v t => exec_portFlush_causes⟩
  · rw [exec_dataWrite, writeData_result hr hp]
    exact next_settle_misusePort hset .writeInResult
  · rw [exec_dataWrite, writeData_execution hr hp]
    exact next_settle_misusePort hset .writeNotReady
  · obtain hp | ⟨hp, hf⟩ := hp
    · exact exec_read_misused hset (readData_execution hr hp)
    · exact exec_read_misused hset (readData_drained hr hp hf)

/-! ### Result reads and refills (R140, R13) -/

theorem exec_resultRead {s : State} : exec .resultRead s = .next (settle (readData s)) := rfl

theorem exec_resultRefill {s : State} (h : s.running = some (.port .refill)) :
    exec .resultRefill s = .next (settle (runRefill s)) := by
  simp [exec, execResultRefill, h, answer]

/-- Settles O8: a byte with more behind it, the last byte of all, the last one in the FIFO; then the two
ends of a refill. -/
theorem resultReadsAndRefills : Obligations.ResultReadsAndRefills := by
  refine ⟨fun s b rest hr hp hf hset => ?_, fun s hrun => ?_⟩
  · rw [exec_resultRead, readData_result hr hp hf]
    refine ⟨fun hrest => ?_, fun hrest hsnap => ?_, fun hrest hsnap => ?_⟩
    · rw [if_pos hrest]
      exact hset.next_settle rfl rfl
    · rw [if_neg (not_not.2 hrest), if_pos hsnap]
      exact hset.next_settle rfl rfl
    · rw [if_neg (not_not.2 hrest), if_neg hsnap]
  · rw [exec_resultRefill hrun, runRefill]
    refine ⟨fun hd => ?_, fun hd => ?_⟩
    · simp [hd, endGrant, Config.fifoDepth]
    · rw [if_pos hd]
      rfl

/-! ### The port flush (R142, R15, Table 8-5) -/

theorem portRunning_iff (s : State) : portRunning s = true ↔ ∃ c, s.running = some (.port c) := by
  unfold portRunning
  cases s.running with
  | none => simp
  | some g => cases g <;> simp [servesPort]

/-- A flush takes claims away and gives none, so that the arbiter stays settled (R13). -/
theorem arbiterSettled_flushPort {s : State} (h : ArbiterSettled s) : ArbiterSettled (flushPort s) := by
  intro hrun
  obtain ⟨htear, hclear, hitems, hfdat, _⟩ := h hrun
  exact ⟨htear, hclear, hitems, hfdat, rfl⟩

theorem exec_portFlush_settled {s : State} (hr : inReset s = false) (h : ArbiterSettled s) (v : Byte) :
    exec (.portFlush v) s = .next (flushPort s) := by
  rw [exec_portFlush hr, (arbiterSettled_flushPort h).settle_eq]

/-- With nothing in progress, no claim waiting and no result wanted, a flush changes nothing. -/
theorem flushPort_of_idle {s : State} (hp : s.port = .idle) (hc : s.portClaim = none)
    (hd : ∀ c, s.running = some (.port c) → s.runningDiscarded = true) : flushPort s = s := by
  have hdisc : (s.runningDiscarded || portRunning s) = s.runningDiscarded := by
    rw [Bool.or_eq_left_iff_imp, portRunning_iff]
    rintro ⟨c, hrun⟩
    exact hd c hrun
  rw [flushPort, hdisc, ← hp, ← hc]

/-- The grant of a flushed table command keeps its work on the replica and gives no result (R15). -/
theorem exec_tableCommandGrant_discarded {s : State} {op : TableOp}
    (hrun : s.running = some (.port (.command op))) (hd : s.runningDiscarded = true) :
    exec .tableCommandGrant s
      = .next (settle { s with
          running := none, runningDiscarded := false, table := tableAfter op s.table }) := by
  have he : exec .tableCommandGrant s = answer (runTableCommand op s) := by
    simp [exec, execTableCommandGrant, hrun]
  rw [he, runTableCommand, if_pos hd]
  rfl

/-- Settles O9: in reset, out of it, with nothing to drop, and the end of the grant that still ran. -/
theorem portFlushDropsCommandInProgress : Obligations.PortFlushDropsCommandInProgress := by
  intro v s
  refine ⟨fun hr => exec_portFlush_inReset hr v, fun hr hset => ?_, fun hr hset hp hc hd => ?_,
    fun op => exec_tableCommandGrant_discarded⟩
  · refine ⟨s.runningDiscarded || portRunning s, exec_portFlush_settled hr hset v, ?_⟩
    rw [Bool.or_eq_true, portRunning_iff]
  · rw [exec_portFlush_settled hr hset, flushPort_of_idle hp hc hd]

end Sys2Proof.Machine
end

section
/-!
PROOF. The Configuration Store's commands IDENTIFY, CONFIGURE, SHOW CONFIG and LOCK (section 8.4; R144 to
R147, Tables 10-11 and 10-12).
-/
namespace Sys2Proof.Machine

/-! ### Handed over to the Configuration Store (R138) -/

theorem exec_identify {s : State} (hs : Ready s) :
    exec .identify s = .next (settle (takeIdentify { s with port := executing .identify })) :=
  congrArg Host.Outcome.next (issue_ready hs .identify [] rfl)

theorem exec_configure {s : State} (hs : Ready s) (p : ConfigBytes) :
    exec (.configure p) s
      = .next (settle (takeConfigure p { s with port := executing .configure })) :=
  congrArg Host.Outcome.next (issue_ready hs .configure (configByteList p) rfl)

theorem exec_showConfig {s : State} (hs : Ready s) :
    exec .showConfig s = .next (settle (takeShowConfig { s with port := executing .showConfig })) :=
  congrArg Host.Outcome.next (issue_ready hs .showConfig [] rfl)

theorem exec_lock {s : State} (hs : Ready s) (v : Byte) :
    exec (.lock v) s = .next (settle (takeLock v { s with port := executing .lock })) :=
  congrArg Host.Outcome.next (issue_ready hs .lock [v] rfl)

/-! ### IDENTIFY (R147) -/

/-- Settles O10: three fixed bytes. -/
theorem identifyReturnsThreeBytes : Obligations.IdentifyReturnsThreeBytes := by
  intro s hs
  rw [exec_identify hs]
  exact hs.next_result rfl rfl .identify (List.cons_ne_nil _ _)

/-! ### The bytes of the record (Tables 10-11 and 10-12) -/

/-- The three reserved bits of the flags are 0 exactly when the byte is below 32. -/
theorem reservedFlags_eq_zero_iff (b : Byte) : b.extractLsb' 5 3 = 0#3 ↔ b.toNat < 32 := by
  have hb := b.isLt
  rw [← BitVec.toNat_inj, BitVec.extractLsb'_toNat, Nat.shiftRight_eq_div_pow]
  simp only [BitVec.toNat_ofNat]
  omega

/-- A CONFIGURE whose nine bytes are all in range (R144). -/
def InRange (p : ConfigBytes) : Prop :=
  p.stationNumber.toNat ≤ 31 ∧ p.lineRate.toNat ≤ 3 ∧ p.flags.toNat < 32
    ∧ p.retryLimit.toNat ≤ 15 ∧ p.fillTimeout ≠ 0 ∧ p.stationComplement = ~~~p.stationNumber
    ∧ p.rateComplement = ~~~p.lineRate ∧ p.flagsComplement = ~~~p.flags

theorem configInRange_iff (p : ConfigBytes) : configInRange p = true ↔ InRange p := by
  simp only [configInRange, InRange, Bool.and_eq_true, decide_eq_true_eq, beq_iff_eq, bne_iff_ne,
    reservedFlags_eq_zero_iff, and_assoc]

/-- One field out of range is enough to refuse the nine bytes (R144). -/
theorem configInRange_eq_false_iff (p : ConfigBytes) : configInRange p = false ↔
    31 < p.stationNumber.toNat ∨ 3 < p.lineRate.toNat ∨ 32 ≤ p.flags.toNat
      ∨ 15 < p.retryLimit.toNat ∨ p.fillTimeout = 0 ∨ p.stationComplement ≠ ~~~p.stationNumber
      ∨ p.rateComplement ≠ ~~~p.lineRate ∨ p.flagsComplement ≠ ~~~p.flags := by
  rw [← Bool.not_eq_true, configInRange_iff, InRange]
  simp only [not_and_or, not_le, not_lt, ne_eq, not_not]

/-- In range, the numbers of a record are those of its bytes. -/
theorem configRecordOf_numbers {p : ConfigBytes} (h : InRange p) :
    (configRecordOf p).station.val = p.stationNumber.toNat
      ∧ (configRecordOf p).rate.val = p.lineRate.toNat
      ∧ (configRecordOf p).retryLimit.val = p.retryLimit.toNat := by
  obtain ⟨hstation, hrate, _, hretry, _⟩ := h
  exact ⟨Nat.mod_eq_of_lt (Nat.lt_succ_of_le hstation), Nat.mod_eq_of_lt (Nat.lt_succ_of_le hrate),
    Nat.mod_eq_of_lt (Nat.lt_succ_of_le hretry)⟩

theorem configRecordOf_attnMode (p : ConfigBytes) :
    (configRecordOf p).attnMode = .level ↔ p.flags.getLsbD 4 = true := by
  simp [configRecordOf]

/-- The bits of the flags byte (Table 10-12). -/
theorem getLsbD_flagsByte (c : ConfigRecord) :
    (flagsByte c).getLsbD 0 = c.quiet ∧ (flagsByte c).getLsbD 1 = c.solo
      ∧ (flagsByte c).getLsbD 2 = c.autoFill ∧ (flagsByte c).getLsbD 3 = c.impliedFill
      ∧ (flagsByte c).getLsbD 4 = decide (c.attnMode = .level) := by
  unfold flagsByte
  refine ⟨?_, ?_, ?_, ?_, ?_⟩ <;> simp only [BitVec.getLsbD_append] <;> simp
  cases c.attnMode <;> rfl

theorem flagsByte_lt (c : ConfigRecord) : (flagsByte c).toNat < 32 := by
  rw [← reservedFlags_eq_zero_iff, flagsByte]
  simp (disch := omega) only [BitVec.extractLsb'_append_eq_of_le, BitVec.extractLsb'_eq_self,
    Nat.reduceSub]

/-- The numbers of a record fit in their bytes. -/
theorem configBytesFor_numbers (c : ConfigRecord) :
    (configBytesFor c).stationNumber.toNat = c.station.val
      ∧ (configBytesFor c).lineRate.toNat = c.rate.val
      ∧ (configBytesFor c).retryLimit.toNat = c.retryLimit.val := by
  have hstation := c.station.isLt
  have hrate := c.rate.isLt
  have hretry := c.retryLimit.isLt
  refine ⟨?_, ?_, ?_⟩ <;> exact Nat.mod_eq_of_lt (by omega)

/-- The nine bytes of a record are in range when its fill timeout is (R144, R145). -/
theorem inRange_configBytesFor {c : ConfigRecord} (h : c.fillTimeout ≠ 0) :
    InRange (configBytesFor c) := by
  obtain ⟨hstation, hrate, hretry⟩ := configBytesFor_numbers c
  refine ⟨?_, ?_, flagsByte_lt c, ?_, h, rfl, rfl, rfl⟩
  · exact hstation.trans_le (Nat.le_of_lt_succ c.station.isLt)
  · exact hrate.trans_le (Nat.le_of_lt_succ c.rate.isLt)
  · exact hretry.trans_le (Nat.le_of_lt_succ c.retryLimit.isLt)

/-- The nine bytes of a record describe it (R145). -/
theorem configRecordOf_configBytesFor {c : ConfigRecord} (h : c.fillTimeout ≠ 0) :
    configRecordOf (configBytesFor c) = c := by
  obtain ⟨hstation, hrate, hretry⟩ := configRecordOf_numbers (inRange_configBytesFor h)
  obtain ⟨hstation', hrate', hretry'⟩ := configBytesFor_numbers c
  obtain ⟨hquiet, hsolo, hauto, himplied, hmode⟩ := getLsbD_flagsByte c
  have hmode' : (if (flagsByte c).getLsbD 4 then AttnMode.level else .edge) = c.attnMode := by
    rw [hmode]
    cases c.attnMode <;> rfl
  have hs := Fin.ext (hstation.trans hstation')
  have hr := Fin.ext (hrate.trans hrate')
  have hl := Fin.ext (hretry.trans hretry')
  cases c
  exact (ConfigRecord.mk.injEq ..).mpr
    ⟨hs, hr, hquiet, hsolo, hl, rfl, hauto, himplied, hmode', rfl⟩

/-! ### CONFIGURE (R144) -/

theorem takeConfigure_attached {s : State} (p : ConfigBytes) (h : s.station ≠ .offline) :
    takeConfigure p s = giveCode .notOffline s := if_pos h

theorem takeConfigure_outOfRange {s : State} {p : ConfigBytes} (h : s.station = .offline)
    (hp : configInRange p = false) : takeConfigure p s = giveCode .badValue s := by
  rw [takeConfigure, if_neg (not_not.2 h), if_pos (by simp [hp])]

theorem takeConfigure_inRange {s : State} {p : ConfigBytes} (h : s.station = .offline)
    (hp : configInRange p = true) :
    takeConfigure p s = giveCode .ok (copyAttention { s with config := configRecordOf p }) := by
  rw [takeConfigure, if_neg (not_not.2 h), if_neg (by simp [hp])]

/-- A CONFIGURE in range at an OFFLINE station writes the record and gives the attention copies (R144). -/
theorem exec_configure_inRange {s : State} {p : ConfigBytes} (hs : Ready s) (h : s.station = .offline)
    (hp : configInRange p = true) :
    exec (.configure p) s
      = .next { copyAttention { s with config := configRecordOf p } with
          port := codePort .configure .ok } := by
  rw [exec_configure hs, takeConfigure_inRange (s := { s with port := executing .configure }) h hp]
  exact hs.next_code (t := copyAttention { s with config := configRecordOf p }) rfl rfl .configure .ok

/-- A record that stands already, with its attention copies given, changes nothing. -/
theorem copyAttention_of_agrees {s : State} (hm : s.attnMode = s.config.attnMode)
    (hk : s.attnMask = s.config.attnMask) (ha : s.attn = pinFor s.latches s.attnMask) :
    copyAttention s = s := by
  rw [copyAttention, ← hm, ← hk, ← ha]

/-- Settles O11: the two refusals in their order, then the record of the nine bytes. -/
theorem configureWritesWholeRecord : Obligations.ConfigureWritesWholeRecord := by
  intro p s hs
  refine ⟨fun hst => ?_, fun hst => ⟨fun hbad => ?_, fun hok => ?_⟩⟩
  · rw [exec_configure hs, takeConfigure_attached (s := { s with port := executing .configure }) p hst]
    exact hs.next_code rfl rfl .configure .notOffline
  · rw [exec_configure hs, takeConfigure_outOfRange (s := { s with port := executing .configure }) hst
      ((configInRange_eq_false_iff p).2 hbad)]
    exact hs.next_code rfl rfl .configure .badValue
  · have hexec := exec_configure_inRange hs hst ((configInRange_iff p).2 hok)
    obtain ⟨hstation, hrate, hretry⟩ := configRecordOf_numbers hok
    refine ⟨configRecordOf p, hstation, hrate, rfl, rfl, rfl, rfl, configRecordOf_attnMode p, hretry,
      rfl, rfl, hexec, fun hc hm hk ha => ?_⟩
    rw [hexec, hc, copyAttention_of_agrees hm hk ha]

/-! ### SHOW CONFIG (R145) -/

/-- SHOW CONFIG returns the nine bytes of the record and the lock flag (R145). -/
theorem exec_showConfig_result {s : State} (hs : Ready s) :
    exec .showConfig s = .next { s with
      port := resultPort .showConfig
        (configByteList (configBytesFor s.config) ++ [if s.lock then 1 else 0]) } := by
  have hlock : (BitVec.ofNat 8 s.lock.toNat : Byte) = if s.lock then 1 else 0 := by
    cases s.lock <;> rfl
  rw [exec_showConfig hs, ← hlock]
  exact hs.next_result rfl rfl .showConfig (List.cons_ne_nil _ _)

/-- Settles O12: the bytes of the record, and their way back through CONFIGURE. -/
theorem showConfigReturnsRecord : Obligations.ShowConfigReturnsRecord := by
  intro s hs
  obtain ⟨hstation, hrate, _⟩ := configBytesFor_numbers s.config
  obtain ⟨hquiet, hsolo, hauto, himplied, hmode⟩ := getLsbD_flagsByte s.config
  refine ⟨BitVec.ofNat 8 s.config.station.val, BitVec.ofNat 8 s.config.rate.val, flagsByte s.config,
    hstation, hrate, hquiet, hsolo, hauto, himplied, hmode, flagsByte_lt s.config,
    exec_showConfig_result hs, fun hfill hst => ?_⟩
  exact ⟨_, exec_configure_inRange hs hst ((configInRange_iff _).2 (inRange_configBytesFor hfill)),
    configRecordOf_configBytesFor hfill, rfl⟩

/-! ### LOCK (R146) -/

theorem takeLock_other {v : Byte} (s : State) (h0 : v ≠ 0) (h1 : v ≠ 1) :
    takeLock v s = giveCode .badValue s := by
  rw [takeLock, if_neg h0, if_neg h1]

/-- LOCK with 0 or 1 writes the flag, with any other value nothing (R146). -/
theorem exec_lock_result {s : State} (hs : Ready s) (v : Byte) :
    (v = 0 → exec (.lock v) s = .next { s with lock := false, port := codePort .lock .ok })
    ∧ (v = 1 → exec (.lock v) s = .next { s with lock := true, port := codePort .lock .ok })
    ∧ (v ≠ 0 → v ≠ 1 → exec (.lock v) s = .next { s with port := codePort .lock .badValue }) := by
  rw [exec_lock hs]
  refine ⟨?_, ?_, fun h0 h1 => ?_⟩
  · rintro rfl
    exact hs.next_code (t := { s with lock := false }) rfl rfl .lock .ok
  · rintro rfl
    exact hs.next_code (t := { s with lock := true }) rfl rfl .lock .ok
  · rw [takeLock_other _ h0 h1]
    exact hs.next_code rfl rfl .lock .badValue

end Sys2Proof.Machine
end

section
/-!
PROOF. The resets (sections 8.5 and 12.3; R146, R148, R149, R161): the reset state and its invariants, the
hardware reset and the port under it, the status byte, and the soft reset.
-/
namespace Sys2Proof.Machine

/-! ### The reset state -/

theorem causeGet_clear (c : Cause) : causeGet PerCause.clear c = false := by cases c <;> rfl

theorem causeGet_resetDetails (c : Cause) :
    causeGet PerCause.resetDetails c = if c = .notInStep then 16 else 0 := by cases c <;> rfl

/-- The port in COMMAND with READY 1, the pin released, the station OFFLINE (Table 10-13). -/
theorem statusByte_reset (q : List Instr) : statusByte { State.reset with pending := q } = 0x01 :=
  calc statusByte { State.reset with pending := q }
    _ = statusByte State.reset := rfl
    _ = 0x01 := by decide

/-- Settles O2: the cells, the summary and the causes one for all, every other field as it is written. -/
theorem resetStateHoldsTableValues : Obligations.ResetStateHoldsTableValues :=
  ⟨cellAt_initial, mem_allChunks, rfl, rfl, rfl, rfl, rfl, rfl, rfl, rfl, rfl, rfl, rfl, rfl, rfl, rfl,
    rfl, rfl, rfl, rfl, rfl, rfl, rfl, rfl, rfl, rfl, rfl, rfl, rfl, rfl, rfl, rfl, rfl, rfl, rfl, rfl, rfl,
    rfl, rfl, rfl, rfl, rfl, causeGet_clear, causeGet_resetDetails, rfl, rfl, rfl, statusByte_reset []⟩

/-- Settles O56: at reset nothing is latched, listed, committed or on the line. -/
theorem invariantsHoldAtReset : Obligations.InvariantsHoldAtReset := by
  obtain ⟨hslots, hgroups, hheld, hresults⟩ := (groupBounds_iff State.reset).1
    (groupBounds_of_initial rfl rfl rfl rfl rfl rfl rfl rfl rfl)
  exact ⟨(attnFollowsLatches_iff _).2 rfl, (arbiterSettled_iff_settle _).2 rfl,
    ⟨fifoFits_idle, mismatchFits_of_mismatch_le (show 0 < 4 by decide)⟩, zeroUnknown_initial,
    stationFollowsCells_of_initial rfl rfl rfl rfl rfl, linkCoherent_offLine rfl rfl rfl rfl rfl,
    applyListBounded_empty rfl rfl rfl, (requestsFit_empty rfl rfl).offLine rfl,
    answerListFits_empty rfl, fdatReadFits_of_free rfl rfl, hslots, hgroups, hheld, hresults,
    groupFollowsLink_empty rfl rfl rfl⟩

/-! ### The hardware reset (R149, R161) -/

theorem inReset_iff (s : State) : inReset s = true ↔ s.resetAsserted = true ∨ s.powerHold = true :=
  Iff.of_eq (Bool.or_eq_true _ _)

theorem inReset_eq_false_iff (s : State) :
    inReset s = false ↔ s.resetAsserted = false ∧ s.powerHold = false := Bool.or_eq_false_iff

theorem exec_hardwareReset {source : ResetSource} (h : resetTaken source = true) (s : State) :
    exec (.hardwareReset source) s = .next (beginReset source s) := if_pos h

/-- RESET# is taken from 1000 ns on (R161). -/
theorem resetTaken_pin_iff (w : Nat) : resetTaken (.pin w) = true ↔ 1000 ≤ w := decide_eq_true_iff

theorem exec_hardwareReset_ignored {source : ResetSource} (h : ¬ resetTaken source = true) (s : State) :
    exec (.hardwareReset source) s = .next s := if_neg h

theorem exec_resetRelease (s : State) : exec .resetRelease s
    = if s.resetAsserted then .next (resetValues false s.powerHold s) else .next s := rfl

theorem exec_powerHoldEnd (s : State) : exec .powerHoldEnd s
    = if s.powerHold then .next (resetValues s.resetAsserted false s) else .next s := rfl

/-- Settles O3: the filter by its boundary, and the ends of the two holds. -/
theorem hardwareResetIsFiltered : Obligations.HardwareResetIsFiltered := by
  rintro s _ rfl
  refine ⟨fun w hw => ?_, fun w hw => ?_, rfl, rfl, fun h => if_pos h, fun h => if_pos h,
    fun h => ?_, fun h => ?_, fun p q => inReset_iff _⟩
  · exact exec_hardwareReset_ignored (by rw [resetTaken_pin_iff]; omega) s
  · exact exec_hardwareReset ((resetTaken_pin_iff w).2 hw) s
  · rw [exec_resetRelease, if_neg (by simp [h])]
  · rw [exec_powerHoldEnd, if_neg (by simp [h])]

/-! ### The port in reset (R149) -/

theorem writeData_inReset {s : State} (h : inReset s = true) (b : Byte) : writeData b s = s := if_pos h

theorem readData_inReset {s : State} (h : inReset s = true) :
    readData s = { s with dataOut := some 0 } := if_pos h

theorem statusByte_inReset {s : State} (h : inReset s = true) : statusByte s = 0x00 := if_pos h

/-- Held in reset, the port ignores writes and reads as 0 (R149). -/
theorem exec_access_inReset {s : State} (h : inReset s = true) (hset : ArbiterSettled s) :
    (∀ b, exec (.dataWrite b) s = .next s)
    ∧ (∀ v, exec (.portFlush v) s = .next s)
    ∧ exec .resultRead s = .next { s with dataOut := some 0 }
    ∧ exec .misusedRead s = .next { s with dataOut := some 0 }
    ∧ statusByte s = 0x00 := by
  have hread : (.next (settle (readData s)) : Host.Outcome State Fault Refusal)
      = .next { s with dataOut := some 0 } := by
    rw [readData_inReset h]
    exact hset.next_settle rfl rfl
  refine ⟨fun b => ?_, exec_portFlush_inReset h, hread, hread, statusByte_inReset h⟩
  rw [exec_dataWrite, writeData_inReset h, hset.settle_eq]

/-! ### The status byte (R137, Tables 8-1 and 10-13) -/

theorem portReady_iff (p : Port) :
    portReady p = true ↔ p.phase = .command ∨ (p.phase = .result ∧ p.fifo ≠ []) := by
  unfold portReady
  cases p.phase <;> simp

theorem portToProcessor_iff (p : Port) :
    portToProcessor p = true ↔ p.phase = .execution ∨ p.phase = .result := by
  unfold portToProcessor
  cases p.phase <;> simp

/-- The fields of the status byte out of reset (Table 10-13). -/
theorem statusByte_fields {s : State} (h : inReset s = false) :
    (statusByte s).getLsbD 0 = portReady s.port ∧ (statusByte s).getLsbD 1 = portToProcessor s.port
      ∧ (statusByte s).extractLsb' 2 2 = phaseCode s.port.phase
      ∧ (statusByte s).getLsbD 4 = s.attn
      ∧ (statusByte s).extractLsb' 5 2 = stationCode s.station
      ∧ (statusByte s).getLsbD 7 = false := by
  rw [statusByte, if_neg (by simp [h])]
  refine ⟨?_, ?_, ?_, ?_, ?_, ?_⟩
  case refine_3 | refine_5 =>
    simp (disch := omega) only [BitVec.extractLsb'_append_eq_of_le, Nat.reduceSub]
    exact BitVec.extractLsb'_append_eq_right
  all_goals simp only [BitVec.getLsbD_append]; simp

/-- Settles O4: the port held in reset, an assertion and its release, and the status byte. -/
theorem portTakesNoAccessInReset : Obligations.PortTakesNoAccessInReset := by
  refine ⟨fun s h hset => exec_access_inReset ((inReset_iff s).2 h) hset, fun s w hw hp => ?_,
    fun s hr hp => ?_⟩
  · refine ⟨resetValues true false s, ?_, rfl, rfl, rfl, (arbiterSettled_iff_settle _).2 rfl,
      causeGet_clear, resetValues false false s, rfl, rfl, rfl, rfl, rfl, rfl, rfl, rfl,
      statusByte_reset s.pending⟩
    rw [exec_hardwareReset ((resetTaken_pin_iff w).2 hw), beginReset, hp]
  · obtain ⟨hready, hdirection, hphase, hattn, hstation, h7⟩ :=
      statusByte_fields ((inReset_eq_false_iff s).2 ⟨hr, hp⟩)
    refine ⟨?_, ?_, ?_, hattn, ?_, h7⟩
    · rw [hready, portReady_iff]
    · rw [hdirection, portToProcessor_iff]
    · rw [hphase]
      cases s.port.phase <;> rfl
    · rw [hstation]
      cases s.station <;> rfl

/-! ### The soft reset (R146, R148) -/

/-- RESET is the soft reset at its code byte, whatever the arbiter's state (R148). -/
theorem exec_reset {s : State} (hr : inReset s = false) (hp : s.port.phase = .command)
    (hc : s.port.command = none) : exec .reset s = .next (softReset s) := by
  have hcode : opcodeOfByte (opcodeByte .reset) = some .reset := opcodeOfByte_opcodeByte .reset
  have hwrite : writeData (opcodeByte .reset) s = softReset s := writeData_code hr hp hc hcode
  have hexec : exec .reset s = .next (settle (writeData (opcodeByte .reset) s)) := rfl
  rw [hexec, hwrite, settle_softReset]

theorem softReset_locked {s : State} (h : s.lock = true) :
    softReset s = { State.reset with
      pending := s.pending, config := s.config, lock := true
      attnMode := s.config.attnMode, attnMask := s.config.attnMask } := by
  rw [softReset, if_pos h, h]
  rfl

theorem softReset_unlocked {s : State} (h : s.lock = false) :
    softReset s = { State.reset with pending := s.pending } := by
  rw [softReset, if_neg (by simp [h]), h]
  rfl

/-- Settles O5: the soft reset with the lock flag 1 and with the lock flag 0. -/
theorem softResetKeepsLockedRecord : Obligations.SoftResetKeepsLockedRecord := by
  intro s hr hp hc
  rw [exec_reset hr hp hc]
  exact ⟨fun h => congrArg _ (softReset_locked h), fun h => congrArg _ (softReset_unlocked h)⟩

/-- Settles O13: the flag by its parameter, CONFIGURE whatever the flag is, and the soft reset by it. -/
theorem lockDecidesSoftReset : Obligations.LockDecidesSoftReset := by
  intro v s hs
  obtain ⟨hr, hp, _⟩ := id hs
  obtain ⟨hunlock, hlock, hother⟩ := exec_lock_result hs v
  have hreset : exec .reset s = .next (softReset s) :=
    exec_reset hr (congrArg Port.phase hp) (congrArg Port.command hp)
  refine ⟨hunlock, hlock, hother, fun p b hst hin => ?_, fun h => ⟨_, hreset, ?_⟩,
    fun h => ⟨_, hreset, ?_⟩⟩
  · exact ⟨_, exec_configure_inRange (s := { s with lock := b }) hs hst hin, rfl, rfl, rfl⟩
  · rw [softReset_locked h]
    exact ⟨rfl, rfl⟩
  · rw [softReset_unlocked h]
    exact ⟨rfl, rfl⟩

end Sys2Proof.Machine
end

section
/-!
PROOF. The Attention Unit's commands STATUS, PEEK STATUS and ACK ALL (chapter 9; R150 to R156, Tables 9-1
and 10-16).
-/
namespace Sys2Proof.Machine

/-! ### Handed over to the Attention Unit (R138) -/

theorem exec_status {s : State} (hs : Ready s) :
    exec .status s = .next (settle (takeStatus { s with port := executing .status })) :=
  congrArg Host.Outcome.next (issue_ready hs .status [] rfl)

theorem exec_peekStatus {s : State} (hs : Ready s) :
    exec .peekStatus s
      = .next (settle (takePeekStatus { s with port := executing .peekStatus })) :=
  congrArg Host.Outcome.next (issue_ready hs .peekStatus [] rfl)

theorem exec_ackAll {s : State} (hs : Ready s) :
    exec .ackAll s = .next (settle (takeAckAll { s with port := executing .ackAll })) :=
  congrArg Host.Outcome.next (issue_ready hs .ackAll [] rfl)

/-! ### The latch of the highest rank (Table 9-1, R154) -/

/-- Causes of a higher rank stand earlier in the order. -/
theorem causesByRank_pairwise : causesByRank.Pairwise fun d c => causeCode d < causeCode c := by decide

theorem highestLatched_eq_none {s : State} (h : ∀ c, causeGet s.latches c = false) :
    highestLatched s = none :=
  List.find?_eq_none.2 fun c _ => by simp [h c]

theorem highestLatched_eq_some {s : State} {c : Cause} (hc : causeGet s.latches c = true)
    (hd : ∀ d, causeCode d < causeCode c → causeGet s.latches d = false) :
    highestLatched s = some c := by
  obtain ⟨earlier, later, hsplit⟩ := List.append_of_mem (mem_causesByRank c)
  refine List.find?_eq_some_iff_append.2 ⟨hc, earlier, later, hsplit, fun d hmem => ?_⟩
  have hpairs := causesByRank_pairwise
  rw [hsplit, List.pairwise_append] at hpairs
  obtain ⟨_, _, hcross⟩ := hpairs
  simp [hd d (hcross d hmem c List.mem_cons_self)]

/-! ### Latches that LEVEL mode sets again (R152) -/

theorem conditionHolds_iff (st : StationState) (c : Cause) : conditionHolds st c = true ↔
    (c = .fault ∧ st = .faulted) ∨ (c = .notInStep ∧ st = .catchingUp) := by
  cases c <;> simp [conditionHolds]

theorem relatches_iff (s : State) (c : Cause) : relatches s c = true ↔ s.attnMode = .level
    ∧ ((c = .fault ∧ s.station = .faulted) ∨ (c = .notInStep ∧ s.station = .catchingUp)) := by
  rw [relatches, Bool.and_eq_true, beq_iff_eq, conditionHolds_iff]

/-- ACK ALL leaves a latch set only when it was set and is set again (R156). -/
theorem causeGet_clearAllLatches (s : State) (c : Cause) :
    causeGet (clearAllLatches s).latches c = (causeGet s.latches c && relatches s c) := by
  cases c with
  | fault | notInStep => rfl
  | diverge | fillFail | inStep | done | watch | portError =>
    simp [causeGet, clearAllLatches, PerCause.clear, relatches, conditionHolds]

/-- With no latch set the pin is deasserted, whatever the mask (R153). -/
theorem pinFor_eq_false {l : PerCause Bool} (h : ∀ c, causeGet l c = false) (mask : Byte) :
    pinFor l mask = false := by
  simp [pinFor, h]

/-! ### STATUS (R154) -/

theorem takeStatus_none {s : State} (h : highestLatched s = none) :
    takeStatus s = giveResult [0xFF, 0] s := by
  rw [takeStatus, h]

theorem takeStatus_some {s : State} {c : Cause} (h : highestLatched s = some c) :
    takeStatus s
      = giveResult [BitVec.ofNat 8 (causeCode c), causeGet s.details c] (clearLatch c s) := by
  rw [takeStatus, h]

/-- Settles O17: the codes as they are tabled, then STATUS with no latch and with one of the highest rank. -/
theorem statusTakesHighestRank : Obligations.StatusTakesHighestRank := by
  refine ⟨rfl, rfl, rfl, rfl, rfl, rfl, rfl, rfl, fun s hs => ⟨fun hnone => ?_, fun c hc hd => ?_⟩⟩
  · rw [exec_status hs,
      takeStatus_none (s := { s with port := executing .status }) (highestLatched_eq_none hnone)]
    exact hs.next_result rfl rfl .status (List.cons_ne_nil _ _)
  · refine ⟨relatches s c, relatches_iff s c, ?_⟩
    rw [exec_status hs,
      takeStatus_some (s := { s with port := executing .status }) (highestLatched_eq_some hc hd)]
    exact hs.next_result (t := clearLatch c s) rfl rfl .status (List.cons_ne_nil _ _)

/-! ### PEEK STATUS (R155) -/

/-- Bit k of the latch byte is the latch of the cause of code k (Table 10-16). -/
theorem getLsbD_latchByte (l : PerCause Bool) (c : Cause) :
    (latchByte l).getLsbD (causeCode c) = causeGet l c := by
  have hcode : causeCode c < 8 := by cases c <;> decide
  rw [latchByte, getLsbD_packByte _ hcode]
  cases c <;> simp [causesByRank, causeCode]

theorem exec_peekStatus_result {s : State} (hs : Ready s) :
    exec .peekStatus s = .next { s with port := resultPort .peekStatus (peekStatusBytes s) } := by
  rw [exec_peekStatus hs]
  exact hs.next_result rfl rfl .peekStatus (List.cons_ne_nil _ _)

/-- Settles O18: the six bytes, the latch byte bit by bit and the two state codes case by case. -/
theorem peekStatusReturnsSixBytes : Obligations.PeekStatusReturnsSixBytes := by
  refine fun s hs => ⟨latchByte s.latches, getLsbD_latchByte s.latches, ?_⟩
  rw [exec_peekStatus_result hs]
  refine congrArg (fun bytes => Host.Outcome.next { s with port := resultPort .peekStatus bytes }) ?_
  simp only [peekStatusBytes, List.cons.injEq, true_and, and_true]
  refine ⟨?attn, ?station, ?group⟩
  case attn => cases s.attn <;> rfl
  case station => cases s.station <;> rfl
  case group =>
    cases s.committed with
    | none => rfl
    | some g =>
      obtain ⟨_, _, state⟩ := g
      cases state <;> rfl

/-! ### ACK ALL (R156) -/

theorem exec_ackAll_result {s : State} (hs : Ready s) :
    exec .ackAll s = .next { clearAllLatches s with port := codePort .ackAll .ok } := by
  rw [exec_ackAll hs]
  exact hs.next_code (t := clearAllLatches s) rfl rfl .ackAll .ok

/-- Settles O19: the latches that stand after ACK ALL, and none of them in EDGE mode. -/
theorem ackAllClearsLatches : Obligations.AckAllClearsLatches := by
  refine fun s hs => ⟨(clearAllLatches s).latches, fun c => ?_, exec_ackAll_result hs,
    fun hedge => pinFor_eq_false (fun c => ?_) _⟩
  · rw [causeGet_clearAllLatches, Bool.and_eq_true, relatches_iff]
  · simp [causeGet_clearAllLatches, relatches, hedge]

end Sys2Proof.Machine
end

section
/-!
PROOF. The queue of commands: what one step does with an empty queue and with a command at the queue's
front (log entry 4).
-/
namespace Sys2Proof.Machine

/-- The block idles: time is not counted, so a step without a command is no change (log entry 4). -/
theorem step_of_pending_nil {s : State} (h : s.pending = []) : step s = .next s := by
  rw [step, h]

/-- The command executed no longer stands in the queue, and the others keep their order. -/
theorem step_of_pending_cons {s : State} {c : Instr} {q : List Instr} (h : s.pending = c :: q) :
    step s = exec c { s with pending := q } := by
  rw [step, h]

/-- Settles O1, by the two shapes of the queue. -/
theorem stepRunsFrontCommand : Obligations.StepRunsFrontCommand :=
  ⟨fun c q s => step_of_pending_cons (s := { s with pending := c :: q }) rfl,
    fun _ hempty => step_of_pending_nil hempty⟩

end Sys2Proof.Machine
end
